-- ==== Sys2Proof/Word.lean ====
section
/-! DEFINITION. The two word types of the hardware (`00_scope.md` R4): a byte is 8 bits, an address and the program
counter are 16 bits. Arithmetic on them wraps (`42_arithmetic_logical.md` R167). -/

namespace Sys2Proof

/-- A register, a flag byte, a memory byte (`00_scope.md` R4: register width and data bus width 8). -/
abbrev Byte := BitVec 8

/-- An address and the program counter (`00_scope.md` R4: PC width and address width 16). -/
abbrev Word := BitVec 16

end Sys2Proof
end

