-- ==== Sys2Proof/Machine/Bytes.lean ====
section
/-! DEFINITION. Byte order, extension and byte fields of words: the notation of `00_scope.md` R6 and R7. -/

namespace Sys2Proof.Machine

/-- The 16-bit quantity `{hi, lo}` (R6), `hi * 256 + lo`. -/
def word (hi lo : Byte) : Word := BitVec.ofNat 16 (hi.toNat * 256 + lo.toNat)

/-- `w[15:8]`. -/
def hiByte (w : Word) : Byte := BitVec.ofNat 8 (w.toNat / 256)

/-- `w[7:0]`. -/
def loByte (w : Word) : Byte := BitVec.ofNat 8 (w.toNat % 256)

/-- `zext_16` (R7): the byte as an address in the zero page. -/
def zext16 (b : Byte) : Word := b.setWidth 16

/-- `sext_16` (R7): `b` if `b < 0x80`, else `b + 0xFF00`. -/
def sext16 (b : Byte) : Word := b.signExtend 16

/-- The successor of an address inside its own page: `(a & 0xFF00) | ((a + 1) & 0x00FF)` (`20_memory.md` R54). -/
def nextInPage (a : Word) : Word := word (hiByte a) (loByte a + 1)

end Sys2Proof.Machine
end

