-- ==== Sys2Proof/Machine/Flags.lean ====
section
/-! DEFINITION. The status register as a byte (`10_state.md` R24 to R34), and every computation of a result with its
flags: the adder (`42_arithmetic_logical.md` R168), the comparator (R169), the shifts and rotates
(`43_shift_incdec.md` R190 to R193). -/

namespace Sys2Proof.Machine

/-- The bits of the status register (R24); `u` is the unused bit 5, `b5` in the spec. -/
inductive Flag
  | n | v | u | b | d | i | z | c
  deriving DecidableEq, Repr

/-- The place of a flag (R24). -/
def Flag.index : Flag → Nat
  | .n => 7
  | .v => 6
  | .u => 5
  | .b => 4
  | .d => 3
  | .i => 2
  | .z => 1
  | .c => 0

/-- Read one flag of a status byte (R34). -/
def getFlag (p : Byte) (f : Flag) : Bool := p.getLsbD f.index

/-- The byte with one bit set, in the place of a flag. -/
def Flag.mask (f : Flag) : Byte := 1#8 <<< f.index

/-- Set one flag of a status byte, the others as they were (R34). -/
def putFlag (p : Byte) (f : Flag) (v : Bool) : Byte := if v then p ||| f.mask else p &&& ~~~f.mask

/-- `SetNZ(v)` on a status byte (R33): N is bit 7 of the result, Z that it is zero. -/
def withNZ (p v : Byte) : Byte := putFlag (putFlag p .n (v.getLsbD 7)) .z (decide (v = 0))

/-- `PushForm(P)` (R31): the byte PHP and BRK push, bits 5 and 4 set. -/
def pushForm (p : Byte) : Byte := p ||| 0x30

/-- `PullForm(P, b)` (R32): the status register after PLP or RTI pulled `b`, its bits 5 and 4 kept. -/
def pullForm (p b : Byte) : Byte := (b &&& 0xCF) ||| (p &&& 0x30)

/-- The status byte interrupt entry pushes (`60_exceptions.md` R303): bit 5 set, bit 4 clear. -/
def interruptForm (p : Byte) : Byte := (p ||| 0x20) &&& 0xEF

/-- What the adder gives. -/
structure AddResult where
  result : Byte
  carry : Bool
  overflow : Bool
  deriving DecidableEq, Repr

/-- `AddWithCarry(a, m, c)` (R168). The D flag is not an input. -/
def addWithCarry (a m : Byte) (c : Bool) : AddResult :=
  let sum := a.toNat + m.toNat + c.toNat
  let result : Byte := BitVec.ofNat 8 sum
  { result := result
    carry := decide (0xFF < sum)
    overflow := decide ((a ^^^ result) &&& (m ^^^ result) &&& 0x80 ≠ 0) }

/-- `Compare(r, m)` on a status byte (R169): C is `r ≥ m` unsigned, Z is `r = m`, N is bit 7 of the difference. -/
def withCompare (p r m : Byte) : Byte :=
  putFlag (putFlag (putFlag p .c (decide (m.toNat ≤ r.toNat))) .z (decide (r = m))) .n ((r - m).getLsbD 7)

/-- The carry of a rotate as a byte, 0 or 1. -/
def carryByte (c : Bool) : Byte := if c then 1 else 0

/-- `M << 1` (R190). -/
def shiftLeft (m : Byte) : Byte := m <<< 1

/-- `M >> 1` (R191). -/
def shiftRight (m : Byte) : Byte := m >>> 1

/-- `(M << 1) | C0` (R192). -/
def rotateLeft (c0 : Bool) (m : Byte) : Byte := (m <<< 1) ||| carryByte c0

/-- `(M >> 1) | (C0 << 7)` (R193). -/
def rotateRight (c0 : Bool) (m : Byte) : Byte := (m >>> 1) ||| (carryByte c0 <<< 7)

/-- The bit a left shift or rotate moves out, `M[7]`. -/
def topBit (m : Byte) : Bool := m.getLsbD 7

/-- The bit a right shift or rotate moves out, `M[0]`. -/
def bottomBit (m : Byte) : Bool := m.getLsbD 0

end Sys2Proof.Machine
end

