-- ==== Sys2Proof/Config.lean ====
section
/-! DEFINITION. What is fixed for the machine: the parameters of `00_scope.md` R4. A model argument of the spec stands
here at the spec's default; the shared operations that read a policy take it as an argument, so that both settings
have a meaning. -/

namespace Sys2Proof.Config

/-- `UNSTABLE_POLICY` (`46_undocumented.md` R271): how ANE, LXA, SHA, SHX, SHY, TAS execute. -/
inductive UnstablePolicy
  | nop
  | refuse
  deriving DecidableEq, Repr

/-- `INTERRUPT_POLICY` (`60_exceptions.md` R302, R313): whether irq() and nmi() have an effect. -/
inductive InterruptPolicy
  | modelled
  | refuse
  deriving DecidableEq, Repr

/-- The spec's default (R271, decision D4). DESIGN CHOICE, log entry 3: the machine is the default one. -/
def unstablePolicy : UnstablePolicy := .nop

/-- The spec's default (R302, decision D14). DESIGN CHOICE, log entry 4: the machine is the default one. -/
def interruptPolicy : InterruptPolicy := .modelled

/-- Base of the stack page (`20_memory.md` R58, R59). -/
def stackPage : Word := 0x0100

/-- Low byte of the NMI vector; the high byte is at the next address (`60_exceptions.md` R301). -/
def nmiVector : Word := 0xFFFA

/-- Low byte of the reset vector (`60_exceptions.md` R301). -/
def resetVector : Word := 0xFFFC

/-- Low byte of the IRQ/BRK vector (`60_exceptions.md` R301). -/
def irqVector : Word := 0xFFFE

/-- The informative base cycle counts of `opcode_table.json` (`BASE_CYCLES`, `70_reset_and_hazards.md` R337): one row of
the opcode matrix a line, low nibble across; 0 for JAM, which has none. No rule and no definition of the machine reads them
(log entry 10). -/
def baseCycleRow : Nat → List Nat
  | 0 => [7, 6, 0, 8, 3, 3, 5, 5, 3, 2, 2, 2, 4, 4, 6, 6]
  | 1 => [2, 5, 0, 8, 4, 4, 6, 6, 2, 4, 2, 7, 4, 4, 7, 7]
  | 2 => [6, 6, 0, 8, 3, 3, 5, 5, 4, 2, 2, 2, 4, 4, 6, 6]
  | 3 => [2, 5, 0, 8, 4, 4, 6, 6, 2, 4, 2, 7, 4, 4, 7, 7]
  | 4 => [6, 6, 0, 8, 3, 3, 5, 5, 3, 2, 2, 2, 3, 4, 6, 6]
  | 5 => [2, 5, 0, 8, 4, 4, 6, 6, 2, 4, 2, 7, 4, 4, 7, 7]
  | 6 => [6, 6, 0, 8, 3, 3, 5, 5, 4, 2, 2, 2, 5, 4, 6, 6]
  | 7 => [2, 5, 0, 8, 4, 4, 6, 6, 2, 4, 2, 7, 4, 4, 7, 7]
  | 8 => [2, 6, 2, 6, 3, 3, 3, 3, 2, 2, 2, 2, 4, 4, 4, 4]
  | 9 => [2, 6, 0, 6, 4, 4, 4, 4, 2, 5, 2, 5, 5, 5, 5, 5]
  | 10 => [2, 6, 2, 6, 3, 3, 3, 3, 2, 2, 2, 2, 4, 4, 4, 4]
  | 11 => [2, 5, 0, 5, 4, 4, 4, 4, 2, 4, 2, 4, 4, 4, 4, 4]
  | 12 => [2, 6, 2, 8, 3, 3, 5, 5, 2, 2, 2, 2, 4, 4, 6, 6]
  | 13 => [2, 5, 0, 8, 4, 4, 6, 6, 2, 4, 2, 7, 4, 4, 7, 7]
  | 14 => [2, 6, 2, 8, 3, 3, 5, 5, 2, 2, 2, 2, 4, 4, 6, 6]
  | 15 => [2, 5, 0, 8, 4, 4, 6, 6, 2, 4, 2, 7, 4, 4, 7, 7]
  | _ => []

/-- The `baseCycles` field of the table entry of an opcode byte (`10_state.md` R35), information only. -/
def baseCycles (opcode : Byte) : Option Nat :=
  match (baseCycleRow (opcode.toNat / 16)).getD (opcode.toNat % 16) 0 with
  | 0 => none
  | n + 1 => some (n + 1)

end Sys2Proof.Config
end

