-- ==== Sys2Proof/Machine/Memory.lean ====
section
/-! DEFINITION. Memory as plain data: a list of (address, byte) cells in one canonical form, addresses strictly rising
and no cell equal to what an unlisted address reads as. It is the bus of `20_memory.md` R51 taken as a plain
read-back memory over the flat 16-bit space of R50 (log entry 2). -/

namespace Sys2Proof.Machine

/-- The listed cells of the 65536 addressable bytes (R50). -/
abbrev Memory := List Host.Cell

/-- What an address that is not listed reads as. DESIGN CHOICE, log entry 1: the spec leaves the bus contents to the
platform (`20_memory.md` R51, R58); its own vectors take 0x00 (`95_test_vectors.md` section 0). -/
def Memory.unlisted : Byte := 0x00

/-- The byte at an address. -/
def Memory.read : Memory → Nat → Byte
  | [], _ => Memory.unlisted
  | (b, v) :: m, a => if a = b then v else Memory.read m a

/-- The memory without the cell of an address. -/
def Memory.erase : Memory → Nat → Memory
  | [], _ => []
  | (b, v) :: m, a => if a = b then Memory.erase m a else (b, v) :: Memory.erase m a

/-- A cell put before the first cell with a greater address. -/
def Memory.insert : Memory → Nat → Byte → Memory
  | [], a, v => [(a, v)]
  | (b, w) :: m, a, v => if a < b then (a, v) :: (b, w) :: m else (b, w) :: Memory.insert m a v

/-- Write a byte. Writing what an unlisted address reads as takes the cell out, so that equal memories are equal
lists. -/
def Memory.write (m : Memory) (a : Nat) (v : Byte) : Memory :=
  if v = Memory.unlisted then m.erase a else (m.erase a).insert a v

/-- The canonical form of the cells from address `lo` on. -/
def Memory.wfFrom : Nat → Memory → Bool
  | _, [] => true
  | lo, (a, v) :: m =>
    decide (lo ≤ a) && decide (a < 65536) && !decide (v = Memory.unlisted) && Memory.wfFrom (a + 1) m

/-- The canonical form: addresses strictly rising and inside the 16-bit space, no cell that reads as an unlisted
address does. -/
def Memory.wf (m : Memory) : Bool := Memory.wfFrom 0 m

end Sys2Proof.Machine
end

