-- ==== Sys2Proof/Machine/State.lean ====
section
/-! DEFINITION. The state of the machine as plain data, the reasons a step can stop, and the state after reset. -/

namespace Sys2Proof.Machine

/-- One access at the bus port (`20_memory.md` R51): each moves one byte (R56). -/
inductive BusAccess
  | read (address : Word) (data : Byte)
  | write (address : Word) (data : Byte)
  deriving DecidableEq, Repr

/-- Everything the spec gives the machine (`10_state.md` R20 to R29), the bytes on the bus, and the record of the bus
accesses. The working address `op` and the entry in flight are local to a tick (R27, R28, log entry 6). -/
structure State where
  /-- `A`, the accumulator (R20). -/
  a : Byte
  /-- `X`, an index register (R21). -/
  x : Byte
  /-- `Y`, an index register (R21). -/
  y : Byte
  /-- `S`, the stack pointer (R22). -/
  sp : Byte
  /-- `P`, the status register, all eight bits stored (R24, R26). -/
  p : Byte
  /-- `PC`, the program counter (R23). -/
  pc : Word
  /-- The Jammed condition (R29). -/
  halted : Bool
  /-- What the bus holds (`20_memory.md` R51). -/
  mem : Memory
  /-- The accesses made on the bus so far, newest first. The model's own field (log entry 5): no rule reads it. -/
  bus : List BusAccess
  deriving DecidableEq, Repr

/-- Why the machine stops with a fault. The spec gives the core none (`60_exceptions.md` R300). -/
inductive Fault
  /-- A bus access that fails (`20_memory.md` R66, U5). Raised by nobody: the bus of this model is a plain memory, total
  as R66 has it (log entry 11). Safe: naming it lets no claim be proved that the hardware breaks. -/
  | busFailure
  deriving DecidableEq, Repr

/-- Why the model gives no meaning. -/
inductive Refusal
  /-- Raised by `exec` for an instruction that has no meaning yet; no arm does so now. Safe. -/
  | notModelled (mnemonic : String)
  /-- Raised by `unstable` under `UNSTABLE_POLICY = refuse` only (`46_undocumented.md` R271). Safe. -/
  | unstableOpcode (mnemonic : String)
  /-- Raised by the inputs irq() and nmi() under `INTERRUPT_POLICY = refuse` only (`60_exceptions.md` R313). Safe. -/
  | interruptInput
  deriving DecidableEq, Repr

/-- The outcome of a step or of a host input. -/
abbrev Out := Host.Outcome State Fault Refusal

/-- The machine right after reset() (`10_state.md` R37, `70_reset_and_hazards.md` R330) on a bus where nothing is listed:
the registers 0, Running, PC from the two vector bytes, and the record of the two reads reset() makes (R331). -/
def State.reset : State where
  a := 0x00
  x := 0x00
  y := 0x00
  sp := 0x00
  p := 0x00
  pc := word (Memory.read [] (Config.resetVector + 1).toNat) (Memory.read [] Config.resetVector.toNat)
  halted := false
  mem := []
  bus := [.read (Config.resetVector + 1) (Memory.read [] (Config.resetVector + 1).toNat),
          .read Config.resetVector (Memory.read [] Config.resetVector.toNat)]

end Sys2Proof.Machine
end

