-- ==== Sys2Proof/Machine/Ops.lean ====
section
/-! DEFINITION. The named operations over registers, flags, the bus and the stack, and the two shared operations of
exceptions: taking a trap and returning from one. A read operation gives the value and the state in which the access
stands on the bus record. -/

namespace Sys2Proof.Machine

/-! ## Registers -/

/-- `A <- v`. -/
def State.setA (s : State) (v : Byte) : State := { s with a := v }

/-- `X <- v`. -/
def State.setX (s : State) (v : Byte) : State := { s with x := v }

/-- `Y <- v`. -/
def State.setY (s : State) (v : Byte) : State := { s with y := v }

/-- `S <- v`. -/
def State.setSp (s : State) (v : Byte) : State := { s with sp := v }

/-- `P <- v`, the whole byte. -/
def State.setP (s : State) (v : Byte) : State := { s with p := v }

/-- `PC <- v`. -/
def State.setPc (s : State) (v : Word) : State := { s with pc := v }

/-- `halted <- v` (`10_state.md` R29). -/
def State.setHalted (s : State) (v : Bool) : State := { s with halted := v }

/-- Read one flag of `P` (`10_state.md` R34). -/
def State.flag (s : State) (f : Flag) : Bool := getFlag s.p f

/-- Write one flag of `P`. -/
def State.putFlag (s : State) (f : Flag) (v : Bool) : State := s.setP (Machine.putFlag s.p f v)

/-- `SetNZ(v)` (`10_state.md` R33). -/
def State.setNZ (s : State) (v : Byte) : State := s.setP (withNZ s.p v)

/-- `Compare(r, m)` (`42_arithmetic_logical.md` R169): it writes N, Z, C only. -/
def State.compare (s : State) (r m : Byte) : State := s.setP (withCompare s.p r m)

/-- Add `m` and the carry flag to `A` (R170; with the complement of the operand R171; the second half of R254 and
R258): C, V, A, N, Z written. -/
def State.addToA (s : State) (m : Byte) : State :=
  let r := addWithCarry s.a m (s.flag .c)
  (((s.putFlag .c r.carry).putFlag .v r.overflow).setA r.result).setNZ r.result

/-! ## The bus -/

/-- The byte the bus holds at an address, with no access made. -/
def State.peek (s : State) (a : Word) : Byte := s.mem.read a.toNat

/-- Put a read of a byte on the bus record. -/
def State.noteRead (s : State) (a : Word) (v : Byte) : State := { s with bus := .read a v :: s.bus }

/-- `MemRead(a, 1)` (`00_scope.md` R7, `20_memory.md` R51): one bus read. -/
def memRead (a : Word) (s : State) : Byte × State := (s.peek a, s.noteRead a (s.peek a))

/-- `MemWrite(a, 1, v)`: one bus write. -/
def memWrite (a : Word) (v : Byte) (s : State) : State :=
  { s with mem := s.mem.write a.toNat v, bus := .write a v :: s.bus }

/-- Two bus reads, low byte first, as one 16-bit quantity. -/
def readPair (lowAt highAt : Word) (s : State) : Word × State :=
  let lo := memRead lowAt s
  let hi := memRead highAt lo.2
  (word hi.1 lo.1, hi.2)

/-- `Read16(a)` (`20_memory.md` R52), modulo 65536. -/
def read16 (a : Word) (s : State) : Word × State := readPair a (a + 1) s

/-- `Read16ZP(z)` (R53): the high byte wraps inside the zero page. -/
def read16zp (z : Byte) (s : State) : Word × State := readPair (zext16 z) (zext16 (z + 1)) s

/-- `Read16Bug(a)` (R54): the high byte comes from the same page. -/
def read16bug (a : Word) (s : State) : Word × State := readPair a (nextInPage a) s

/-! ## The stack -/

/-- The address `0x0100 + S` (`10_state.md` R22). -/
def stackAddr (sp : Byte) : Word := Config.stackPage + zext16 sp

/-- `Push8(v)` (`20_memory.md` R59). -/
def push8 (v : Byte) (s : State) : State := (memWrite (stackAddr s.sp) v s).setSp (s.sp - 1)

/-- `Pull8()` (R59). -/
def pull8 (s : State) : Byte × State := memRead (stackAddr (s.sp + 1)) (s.setSp (s.sp + 1))

/-- Push a 16-bit value, high byte first (R59, R69). -/
def pushWord (w : Word) (s : State) : State := push8 (loByte w) (push8 (hiByte w) s)

/-- Pull a 16-bit value, low byte first (R59, R69). -/
def pullWord (s : State) : Word × State :=
  let lo := pull8 s
  let hi := pull8 lo.2
  (word hi.1 lo.1, hi.2)

/-! ## Taking a trap and returning from one -/

/-- Trap entry, one operation for BRK, irq() and nmi() (`45_flag_system.md` R237, `60_exceptions.md` R303, R308): the return
address is pushed high byte first, then the status byte; I is set; PC comes from the vector. -/
def takeTrap (returnTo : Word) (status : Byte) (vector : Word) (s : State) : State :=
  let saved := push8 status (pushWord returnTo s)
  let target := read16 vector (saved.putFlag .i true)
  target.2.setPc target.1

/-- Return from a trap (`44_branch_jump.md` R222, `60_exceptions.md` R309): the status byte is pulled, its bits 5 and 4
ignored, then PC low and high. -/
def returnFromTrap (s : State) : State :=
  let b := pull8 s
  let target := pullWord (b.2.setP (pullForm b.2.p b.1))
  target.2.setPc target.1

end Sys2Proof.Machine
end

