-- ==== Sys2Proof/Syntax.lean ====
section
/-! DEFINITION. The instructions as syntax: the thirteen addressing modes, the operand forms with their data, and one
constructor for each mnemonic of `spec/opcode_table.json` (NOP has two, for its two rules). A table row is a
constructor together with a mode: an instruction with several modes takes an `Operand`, one with a single mode takes
that mode's data. Where several opcode bytes mean the same instruction in the same mode (`30_encoding.md` R90) the
constructor also carries which of them it is, numbered in the order of R86. -/

namespace Sys2Proof

/-- The thirteen addressing modes (`30_encoding.md` R81). -/
inductive Mode
  | imp | acc | imm | zpg | zpgx | zpgy | abs | absx | absy | ind | indx | indy | rel
  deriving DecidableEq, Repr

/-- Operand bytes after the opcode byte: 0, 1 or 2 (R80, R81). -/
def Mode.operandLength : Mode → Nat
  | .imp | .acc => 0
  | .imm | .zpg | .zpgx | .zpgy | .indx | .indy | .rel => 1
  | .abs | .absx | .absy | .ind => 2

/-- An operand as the instruction's bytes give it (`30_encoding.md` R81, R82): a mode with its immediate, zero-page,
displacement or 16-bit field. Nothing is indexed or resolved here. -/
inductive Operand
  | imp
  | acc
  | imm (ii : Byte)
  | zpg (zz : Byte)
  | zpgx (zz : Byte)
  | zpgy (zz : Byte)
  | abs (hhll : Word)
  | absx (hhll : Word)
  | absy (hhll : Word)
  | ind (hhll : Word)
  | indx (zz : Byte)
  | indy (zz : Byte)
  | rel (rr : Byte)
  deriving DecidableEq, Repr

/-- The mode of an operand. -/
def Operand.mode : Operand → Mode
  | .imp => .imp
  | .acc => .acc
  | .imm _ => .imm
  | .zpg _ => .zpg
  | .zpgx _ => .zpgx
  | .zpgy _ => .zpgy
  | .abs _ => .abs
  | .absx _ => .absx
  | .absy _ => .absy
  | .ind _ => .ind
  | .indx _ => .indx
  | .indy _ => .indy
  | .rel _ => .rel

/-- The instructions. The rule that gives each its semantics stands beside it. -/
inductive Instr
  -- load, store, transfer, stack: `41_load_store_transfer_stack.md`
  | lda (o : Operand)             -- R140
  | ldx (o : Operand)             -- R141
  | ldy (o : Operand)             -- R142
  | sta (o : Operand)             -- R143
  | stx (o : Operand)             -- R144
  | sty (o : Operand)             -- R145
  | tax                           -- R146
  | tay                           -- R147
  | tsx                           -- R148
  | txa                           -- R149
  | tya                           -- R150
  | txs                           -- R151
  | pha                           -- R152
  | php                           -- R153
  | pla                           -- R154
  | plp                           -- R155
  -- arithmetic, compare, logical: `42_arithmetic_logical.md`
  | adc (o : Operand)             -- R170
  | sbc (o : Operand)             -- R171
  | cmp (o : Operand)             -- R172
  | cpx (o : Operand)             -- R173
  | cpy (o : Operand)             -- R174
  | and (o : Operand)             -- R175
  | ora (o : Operand)             -- R176
  | eor (o : Operand)             -- R177
  | bit (o : Operand)             -- R178
  -- shift, rotate, increment, decrement: `43_shift_incdec.md`
  | asl (o : Operand)             -- R190
  | lsr (o : Operand)             -- R191
  | rol (o : Operand)             -- R192
  | ror (o : Operand)             -- R193
  | inc (o : Operand)             -- R194
  | dec (o : Operand)             -- R195
  | inx                           -- R196
  | iny                           -- R197
  | dex                           -- R198
  | dey                           -- R199
  -- branches, jumps, call, returns: `44_branch_jump.md`
  | bpl (rr : Byte)               -- R211
  | bmi (rr : Byte)               -- R212
  | bvc (rr : Byte)               -- R213
  | bvs (rr : Byte)               -- R214
  | bcc (rr : Byte)               -- R215
  | bcs (rr : Byte)               -- R216
  | bne (rr : Byte)               -- R217
  | beq (rr : Byte)               -- R218
  | jmp (o : Operand)             -- R219
  | jsr (hhll : Word)             -- R220
  | rts                           -- R221
  | rti                           -- R222
  -- flag operations, system: `45_flag_system.md`
  | clc                           -- R230
  | sec                           -- R231
  | cli                           -- R232
  | sei                           -- R233
  | cld                           -- R234
  | sed                           -- R235
  | clv                           -- R236
  | brk                           -- R237
  | nop                           -- R238, byte EA
  | jam (k : Fin 12)              -- R239, the k-th of its twelve bytes
  -- undocumented: `46_undocumented.md`
  | nopu (k : Fin 6) (o : Operand) -- R250, the k-th NOP byte of the operand's mode
  | lax (o : Operand)             -- R251
  | sax (o : Operand)             -- R252
  | dcp (o : Operand)             -- R253
  | isc (o : Operand)             -- R254
  | slo (o : Operand)             -- R255
  | rla (o : Operand)             -- R256
  | sre (o : Operand)             -- R257
  | rra (o : Operand)             -- R258
  | alr (ii : Byte)               -- R259
  | anc (k : Fin 2) (ii : Byte)   -- R260, byte 0B or 2B
  | arr (ii : Byte)               -- R261
  | sbx (ii : Byte)               -- R262
  | usb (ii : Byte)               -- R263
  | las (hhll : Word)             -- R264, mode ABSY
  | ane (ii : Byte)               -- R265
  | lxa (ii : Byte)               -- R266
  | sha (o : Operand)             -- R267
  | shx (hhll : Word)             -- R268, mode ABSY
  | shy (hhll : Word)             -- R269, mode ABSX
  | tas (hhll : Word)             -- R270, mode ABSY
  deriving DecidableEq, Repr

/-- The operand of an instruction; its mode is the addressing mode of the instruction's table entry (R84). -/
def Instr.operand : Instr → Operand
  | .lda o | .ldx o | .ldy o | .sta o | .stx o | .sty o => o
  | .adc o | .sbc o | .cmp o | .cpx o | .cpy o | .and o | .ora o | .eor o | .bit o => o
  | .asl o | .lsr o | .rol o | .ror o | .inc o | .dec o => o
  | .jmp o | .nopu _ o | .lax o | .sax o | .dcp o | .isc o | .slo o | .rla o | .sre o | .rra o | .sha o => o
  | .tax | .tay | .tsx | .txa | .tya | .txs | .pha | .php | .pla | .plp => .imp
  | .inx | .iny | .dex | .dey | .rts | .rti => .imp
  | .clc | .sec | .cli | .sei | .cld | .sed | .clv | .brk | .nop | .jam _ => .imp
  | .bpl rr | .bmi rr | .bvc rr | .bvs rr | .bcc rr | .bcs rr | .bne rr | .beq rr => .rel rr
  | .alr ii | .anc _ ii | .arr ii | .sbx ii | .usb ii | .ane ii | .lxa ii => .imm ii
  | .jsr w => .abs w
  | .shy w => .absx w
  | .las w | .shx w | .tas w => .absy w

/-- Length of an instruction in bytes: the opcode byte and the operand bytes of its mode (R80, R88). -/
def Instr.length (i : Instr) : Nat := 1 + i.operand.mode.operandLength

end Sys2Proof
end

