-- ==== Sys2Proof/Machine/Operands.lean ====
section
/-! DEFINITION. The addressing-mode resolver and the operand access (`40_tick_and_addressing.md` R105 to R119), as the
execute step sees them: `PC` is already past the instruction, its operand bytes are in the `Operand`. -/

namespace Sys2Proof.Machine

/-- The working address `op` of an operand, and the state after the pointer reads of its mode (R105 to R117). In IMM and
REL `op` is the address of the operand byte, the last byte of the instruction (R107, R117). In IMP and ACC the value is
not used (R105, R106, log entry 6). -/
def resolve (o : Operand) (s : State) : Word × State :=
  match o with
  | .imp => (s.pc, s)
  | .acc => (zext16 s.a, s)
  | .imm _ => (s.pc - 1, s)
  | .rel _ => (s.pc - 1, s)
  | .zpg zz => (zext16 zz, s)
  | .zpgx zz => (zext16 (zz + s.x), s)
  | .zpgy zz => (zext16 (zz + s.y), s)
  | .abs w => (w, s)
  | .absx w => (w + zext16 s.x, s)
  | .absy w => (w + zext16 s.y, s)
  | .ind w => read16bug w s
  | .indx zz => read16zp (zz + s.x) s
  | .indy zz =>
    let base := read16zp zz s
    (base.1 + zext16 s.y, base.2)

/-- The effective address of an operand: `op` after the addressing-mode routine. -/
def effAddr (o : Operand) (s : State) : Word := (resolve o s).1

/-- `OperandRead()` (R118): `A` in accumulator mode, else one bus read at `op`. In IMM and REL the byte at `op` is the
operand byte the instruction was decoded from (log entry 9). -/
def operandRead (o : Operand) (op : Word) (s : State) : Byte × State :=
  match o with
  | .acc => (s.a, s)
  | .imm ii => (ii, s.noteRead op ii)
  | .rel rr => (rr, s.noteRead op rr)
  | _ => memRead op s

/-- `OperandWrite(v)` (R119): `A` in accumulator mode, else one bus write at `op`. -/
def operandWrite (o : Operand) (op : Word) (v : Byte) (s : State) : State :=
  match o with
  | .acc => s.setA v
  | _ => memWrite op v s

/-! ## The three shapes of an instruction with an operand -/

/-- Resolve, read the operand `M`, and go on with it. -/
def readingOperand (o : Operand) (k : Byte → State → State) (s : State) : Out :=
  let r := resolve o s
  let m := operandRead o r.1 r.2
  .next (k m.1 m.2)

/-- Resolve and write a byte to the operand; no read of it (`20_memory.md` R68). -/
def writingOperand (o : Operand) (v : Byte) (s : State) : Out :=
  let r := resolve o s
  .next (operandWrite o r.1 v r.2)

/-- Read-modify-write (`43_shift_incdec.md` R186, `46_undocumented.md` R272): resolve, read `M`, write `f M` to the same place,
and go on with both. -/
def modifyingOperand (o : Operand) (f : Byte → Byte) (k : Byte → Byte → State → State) (s : State) : Out :=
  let r := resolve o s
  let m := operandRead o r.1 r.2
  .next (k m.1 (f m.1) (operandWrite o r.1 (f m.1) m.2))

/-- Resolve and do nothing more: the effective address is not accessed (`46_undocumented.md` R250). -/
def ignoringOperand (o : Operand) (s : State) : Out := .next (resolve o s).2

end Sys2Proof.Machine
end

