-- ==== Sys2Proof/Machine/Arith.lean ====
section
/-! DEFINITION. Arithmetic, compare and logical instructions: `42_arithmetic_logical.md` R170 to R178. -/

namespace Sys2Proof.Machine

/-- ADC (R170). -/
def execAdc (o : Operand) (s : State) : Out := readingOperand o (fun m t => t.addToA m) s

/-- SBC (R171): ADC of the complement. -/
def execSbc (o : Operand) (s : State) : Out := readingOperand o (fun m t => t.addToA (m ^^^ 0xFF)) s

/-- CMP (R172). -/
def execCmp (o : Operand) (s : State) : Out := readingOperand o (fun m t => t.compare t.a m) s

/-- CPX (R173). -/
def execCpx (o : Operand) (s : State) : Out := readingOperand o (fun m t => t.compare t.x m) s

/-- CPY (R174). -/
def execCpy (o : Operand) (s : State) : Out := readingOperand o (fun m t => t.compare t.y m) s

/-- AND (R175). -/
def execAnd (o : Operand) (s : State) : Out :=
  readingOperand o (fun m t => (t.setA (t.a &&& m)).setNZ (t.a &&& m)) s

/-- ORA (R176). -/
def execOra (o : Operand) (s : State) : Out :=
  readingOperand o (fun m t => (t.setA (t.a ||| m)).setNZ (t.a ||| m)) s

/-- EOR (R177). -/
def execEor (o : Operand) (s : State) : Out :=
  readingOperand o (fun m t => (t.setA (t.a ^^^ m)).setNZ (t.a ^^^ m)) s

/-- BIT (R178): Z from `A & M`, N and V from M itself. -/
def execBit (o : Operand) (s : State) : Out :=
  readingOperand o (fun m t =>
    ((t.putFlag .z (decide (t.a &&& m = 0))).putFlag .n (m.getLsbD 7)).putFlag .v (m.getLsbD 6)) s

end Sys2Proof.Machine
end

