-- ==== Sys2Proof/Machine/Branch.lean ====
section
/-! DEFINITION. Branches, jumps, subroutine call and returns: `44_branch_jump.md` R210 to R222. -/

namespace Sys2Proof.Machine

/-- `Branch(cond)` (R210): the displacement is read in every case; taken, it is added to the PC that is already past the
instruction. -/
def branch (cond : Bool) (rr : Byte) (s : State) : Out :=
  readingOperand (.rel rr) (fun d t => if cond then t.setPc (t.pc + sext16 d) else t) s

/-- BPL (R211). -/
def execBpl (rr : Byte) (s : State) : Out := branch (!s.flag .n) rr s

/-- BMI (R212). -/
def execBmi (rr : Byte) (s : State) : Out := branch (s.flag .n) rr s

/-- BVC (R213). -/
def execBvc (rr : Byte) (s : State) : Out := branch (!s.flag .v) rr s

/-- BVS (R214). -/
def execBvs (rr : Byte) (s : State) : Out := branch (s.flag .v) rr s

/-- BCC (R215). -/
def execBcc (rr : Byte) (s : State) : Out := branch (!s.flag .c) rr s

/-- BCS (R216). -/
def execBcs (rr : Byte) (s : State) : Out := branch (s.flag .c) rr s

/-- BNE (R217). -/
def execBne (rr : Byte) (s : State) : Out := branch (!s.flag .z) rr s

/-- BEQ (R218). -/
def execBeq (rr : Byte) (s : State) : Out := branch (s.flag .z) rr s

/-- JMP (R219): in mode IND `op` comes through the pointer with the page-wrap bug. -/
def execJmp (o : Operand) (s : State) : Out :=
  let op := resolve o s
  .next (op.2.setPc op.1)

/-- JSR (R220): the address of its own last byte is pushed. -/
def execJsr (hhll : Word) (s : State) : Out :=
  let op := resolve (.abs hhll) s
  .next ((pushWord (op.2.pc - 1) op.2).setPc op.1)

/-- RTS (R221). -/
def execRts (s : State) : Out :=
  let w := pullWord s
  .next (w.2.setPc (w.1 + 1))

/-- RTI (R222). -/
def execRti (s : State) : Out := .next (returnFromTrap s)

end Sys2Proof.Machine
end

