-- ==== Sys2Proof/Machine/LoadStore.lean ====
section
/-! DEFINITION. Load, store, transfer and stack instructions: `41_load_store_transfer_stack.md` R140 to R155. -/

namespace Sys2Proof.Machine

/-- LDA (R140). -/
def execLda (o : Operand) (s : State) : Out := readingOperand o (fun m t => (t.setA m).setNZ m) s

/-- LDX (R141). -/
def execLdx (o : Operand) (s : State) : Out := readingOperand o (fun m t => (t.setX m).setNZ m) s

/-- LDY (R142). -/
def execLdy (o : Operand) (s : State) : Out := readingOperand o (fun m t => (t.setY m).setNZ m) s

/-- STA (R143). -/
def execSta (o : Operand) (s : State) : Out := writingOperand o s.a s

/-- STX (R144). It has no accumulator mode, so its operand write is the memory write of the rule. -/
def execStx (o : Operand) (s : State) : Out := writingOperand o s.x s

/-- STY (R145). -/
def execSty (o : Operand) (s : State) : Out := writingOperand o s.y s

/-- TAX (R146). -/
def execTax (s : State) : Out := .next ((s.setX s.a).setNZ s.a)

/-- TAY (R147). -/
def execTay (s : State) : Out := .next ((s.setY s.a).setNZ s.a)

/-- TSX (R148). -/
def execTsx (s : State) : Out := .next ((s.setX s.sp).setNZ s.sp)

/-- TXA (R149). -/
def execTxa (s : State) : Out := .next ((s.setA s.x).setNZ s.x)

/-- TYA (R150). -/
def execTya (s : State) : Out := .next ((s.setA s.y).setNZ s.y)

/-- TXS (R151): no flag. -/
def execTxs (s : State) : Out := .next (s.setSp s.x)

/-- PHA (R152). -/
def execPha (s : State) : Out := .next (push8 s.a s)

/-- PHP (R153). -/
def execPhp (s : State) : Out := .next (push8 (pushForm s.p) s)

/-- PLA (R154). -/
def execPla (s : State) : Out :=
  let m := pull8 s
  .next ((m.2.setA m.1).setNZ m.1)

/-- PLP (R155). -/
def execPlp (s : State) : Out :=
  let b := pull8 s
  .next (b.2.setP (pullForm b.2.p b.1))

end Sys2Proof.Machine
end

