-- ==== Sys2Proof/Machine/Shift.lean ====
section
/-! DEFINITION. Shift, rotate, increment and decrement instructions: `43_shift_incdec.md` R190 to R199. -/

namespace Sys2Proof.Machine

/-- ASL (R190). -/
def execAsl (o : Operand) (s : State) : Out :=
  modifyingOperand o shiftLeft (fun m r t => (t.putFlag .c (topBit m)).setNZ r) s

/-- LSR (R191). -/
def execLsr (o : Operand) (s : State) : Out :=
  modifyingOperand o shiftRight (fun m r t => (t.putFlag .c (bottomBit m)).setNZ r) s

/-- ROL (R192): `C0` is the carry on entry. -/
def execRol (o : Operand) (s : State) : Out :=
  modifyingOperand o (rotateLeft (s.flag .c)) (fun m r t => (t.putFlag .c (topBit m)).setNZ r) s

/-- ROR (R193). -/
def execRor (o : Operand) (s : State) : Out :=
  modifyingOperand o (rotateRight (s.flag .c)) (fun m r t => (t.putFlag .c (bottomBit m)).setNZ r) s

/-- INC (R194). -/
def execInc (o : Operand) (s : State) : Out := modifyingOperand o (· + 1) (fun _ r t => t.setNZ r) s

/-- DEC (R195). -/
def execDec (o : Operand) (s : State) : Out := modifyingOperand o (· - 1) (fun _ r t => t.setNZ r) s

/-- INX (R196). -/
def execInx (s : State) : Out := .next ((s.setX (s.x + 1)).setNZ (s.x + 1))

/-- INY (R197). -/
def execIny (s : State) : Out := .next ((s.setY (s.y + 1)).setNZ (s.y + 1))

/-- DEX (R198). -/
def execDex (s : State) : Out := .next ((s.setX (s.x - 1)).setNZ (s.x - 1))

/-- DEY (R199). -/
def execDey (s : State) : Out := .next ((s.setY (s.y - 1)).setNZ (s.y - 1))

end Sys2Proof.Machine
end

