-- ==== Sys2Proof/Machine/System.lean ====
section
/-! DEFINITION. Flag operations and system instructions: `45_flag_system.md` R230 to R239. -/

namespace Sys2Proof.Machine

/-- CLC (R230). -/
def execClc (s : State) : Out := .next (s.putFlag .c false)

/-- SEC (R231). -/
def execSec (s : State) : Out := .next (s.putFlag .c true)

/-- CLI (R232). -/
def execCli (s : State) : Out := .next (s.putFlag .i false)

/-- SEI (R233). -/
def execSei (s : State) : Out := .next (s.putFlag .i true)

/-- CLD (R234). -/
def execCld (s : State) : Out := .next (s.putFlag .d false)

/-- SED (R235). -/
def execSed (s : State) : Out := .next (s.putFlag .d true)

/-- CLV (R236). -/
def execClv (s : State) : Out := .next (s.putFlag .v false)

/-- BRK (R237): a trap whose return address skips the byte after the opcode. -/
def execBrk (s : State) : Out := .next (takeTrap (s.pc + 1) (pushForm s.p) Config.irqVector s)

/-- NOP, byte EA (R238). -/
def execNop (s : State) : Out := .next s

/-- JAM (R239): the twelve bytes are identical. -/
def execJam (s : State) : Out := .next (s.setHalted true)

end Sys2Proof.Machine
end

