-- ==== Sys2Proof/Machine/Undocumented.lean ====
section
/-! DEFINITION. Undocumented opcodes: `46_undocumented.md` R250 to R272. -/

namespace Sys2Proof.Machine

/-- NOP in its undocumented forms (R250): the operand is resolved, not accessed. -/
def execNopu (o : Operand) (s : State) : Out := ignoringOperand o s

/-- LAX (R251). -/
def execLax (o : Operand) (s : State) : Out :=
  readingOperand o (fun m t => ((t.setA m).setX m).setNZ m) s

/-- SAX (R252). -/
def execSax (o : Operand) (s : State) : Out := writingOperand o (s.a &&& s.x) s

/-- DCP (R253). -/
def execDcp (o : Operand) (s : State) : Out := modifyingOperand o (· - 1) (fun _ r t => t.compare t.a r) s

/-- ISC (R254). -/
def execIsc (o : Operand) (s : State) : Out :=
  modifyingOperand o (· + 1) (fun _ r t => t.addToA (r ^^^ 0xFF)) s

/-- SLO (R255). -/
def execSlo (o : Operand) (s : State) : Out :=
  modifyingOperand o shiftLeft
    (fun m r t => ((t.putFlag .c (topBit m)).setA (t.a ||| r)).setNZ (t.a ||| r)) s

/-- RLA (R256). -/
def execRla (o : Operand) (s : State) : Out :=
  modifyingOperand o (rotateLeft (s.flag .c))
    (fun m r t => ((t.putFlag .c (topBit m)).setA (t.a &&& r)).setNZ (t.a &&& r)) s

/-- SRE (R257). -/
def execSre (o : Operand) (s : State) : Out :=
  modifyingOperand o shiftRight
    (fun m r t => ((t.putFlag .c (bottomBit m)).setA (t.a ^^^ r)).setNZ (t.a ^^^ r)) s

/-- RRA (R258): the add takes the carry that the rotate produced. -/
def execRra (o : Operand) (s : State) : Out :=
  modifyingOperand o (rotateRight (s.flag .c)) (fun m r t => (t.putFlag .c (bottomBit m)).addToA r) s

/-- ALR (R259). -/
def execAlr (ii : Byte) (s : State) : Out :=
  readingOperand (.imm ii) (fun m t =>
    let r := shiftRight (t.a &&& m)
    ((t.putFlag .c (bottomBit (t.a &&& m))).setA r).setNZ r) s

/-- ANC (R260): C is the new N. -/
def execAnc (ii : Byte) (s : State) : Out :=
  readingOperand (.imm ii) (fun m t =>
    let u := (t.setA (t.a &&& m)).setNZ (t.a &&& m)
    u.putFlag .c (u.flag .n)) s

/-- ARR (R261): C is bit 6 of the result, V is bit 6 xor bit 5. -/
def execArr (ii : Byte) (s : State) : Out :=
  readingOperand (.imm ii) (fun m t =>
    let r := rotateRight (t.flag .c) (t.a &&& m)
    (((t.setA r).setNZ r).putFlag .c (r.getLsbD 6)).putFlag .v (r.getLsbD 6 ^^ r.getLsbD 5)) s

/-- SBX (R262): C as a compare of `A & X` with M, N and Z from the new X. -/
def execSbx (ii : Byte) (s : State) : Out :=
  readingOperand (.imm ii) (fun m t =>
    let u := t.a &&& t.x
    ((t.putFlag .c (decide (m.toNat ≤ u.toNat))).setX (u - m)).setNZ (u - m)) s

/-- USB (R263): exactly SBC. -/
def execUsb (ii : Byte) (s : State) : Out := readingOperand (.imm ii) (fun m t => t.addToA (m ^^^ 0xFF)) s

/-- LAS (R264), mode ABSY. -/
def execLas (hhll : Word) (s : State) : Out :=
  readingOperand (.absy hhll) (fun m t =>
    let v := m &&& t.sp
    (((t.setA v).setX v).setSp v).setNZ v) s

/-! ## The unstable opcodes (R271) -/

/-- An unstable opcode under a policy (R271): under `nop` the addressing-mode routine runs and nothing else happens;
under `refuse` the byte has no meaning. -/
def unstable (policy : Config.UnstablePolicy) (mnemonic : String) (o : Operand) (s : State) : Out :=
  match policy with
  | .nop => ignoringOperand o s
  | .refuse => .refused (.unstableOpcode mnemonic)

/-- ANE (R265). -/
def execAne (ii : Byte) (s : State) : Out := unstable Config.unstablePolicy "ANE" (.imm ii) s

/-- LXA (R266). -/
def execLxa (ii : Byte) (s : State) : Out := unstable Config.unstablePolicy "LXA" (.imm ii) s

/-- SHA (R267). -/
def execSha (o : Operand) (s : State) : Out := unstable Config.unstablePolicy "SHA" o s

/-- SHX (R268), mode ABSY. -/
def execShx (hhll : Word) (s : State) : Out := unstable Config.unstablePolicy "SHX" (.absy hhll) s

/-- SHY (R269), mode ABSX. -/
def execShy (hhll : Word) (s : State) : Out := unstable Config.unstablePolicy "SHY" (.absx hhll) s

/-- TAS (R270), mode ABSY. -/
def execTas (hhll : Word) (s : State) : Out := unstable Config.unstablePolicy "TAS" (.absy hhll) s

end Sys2Proof.Machine
end

