-- ==== Sys2Proof/Machine/Dispatch.lean ====
section
/-! DEFINITION. The execute step: one arm per instruction, each one call of its meaning. -/

namespace Sys2Proof.Machine

def exec (i : Instr) (s : State) : Host.Outcome State Fault Refusal :=
  match i with
  -- load, store, transfer, stack: `41_load_store_transfer_stack.md`
  | .lda o => Sys2Proof.Machine.execLda o s
  | .ldx o => Sys2Proof.Machine.execLdx o s
  | .ldy o => Sys2Proof.Machine.execLdy o s
  | .sta o => Sys2Proof.Machine.execSta o s
  | .stx o => Sys2Proof.Machine.execStx o s
  | .sty o => Sys2Proof.Machine.execSty o s
  | .tax => Sys2Proof.Machine.execTax s
  | .tay => Sys2Proof.Machine.execTay s
  | .tsx => Sys2Proof.Machine.execTsx s
  | .txa => Sys2Proof.Machine.execTxa s
  | .tya => Sys2Proof.Machine.execTya s
  | .txs => Sys2Proof.Machine.execTxs s
  | .pha => Sys2Proof.Machine.execPha s
  | .php => Sys2Proof.Machine.execPhp s
  | .pla => Sys2Proof.Machine.execPla s
  | .plp => Sys2Proof.Machine.execPlp s
  -- arithmetic, compare, logical: `42_arithmetic_logical.md`
  | .adc o => Sys2Proof.Machine.execAdc o s
  | .sbc o => Sys2Proof.Machine.execSbc o s
  | .cmp o => Sys2Proof.Machine.execCmp o s
  | .cpx o => Sys2Proof.Machine.execCpx o s
  | .cpy o => Sys2Proof.Machine.execCpy o s
  | .and o => Sys2Proof.Machine.execAnd o s
  | .ora o => Sys2Proof.Machine.execOra o s
  | .eor o => Sys2Proof.Machine.execEor o s
  | .bit o => Sys2Proof.Machine.execBit o s
  -- shift, rotate, increment, decrement: `43_shift_incdec.md`
  | .asl o => Sys2Proof.Machine.execAsl o s
  | .lsr o => Sys2Proof.Machine.execLsr o s
  | .rol o => Sys2Proof.Machine.execRol o s
  | .ror o => Sys2Proof.Machine.execRor o s
  | .inc o => Sys2Proof.Machine.execInc o s
  | .dec o => Sys2Proof.Machine.execDec o s
  | .inx => Sys2Proof.Machine.execInx s
  | .iny => Sys2Proof.Machine.execIny s
  | .dex => Sys2Proof.Machine.execDex s
  | .dey => Sys2Proof.Machine.execDey s
  -- branches, jumps, call, returns: `44_branch_jump.md`
  | .bpl rr => Sys2Proof.Machine.execBpl rr s
  | .bmi rr => Sys2Proof.Machine.execBmi rr s
  | .bvc rr => Sys2Proof.Machine.execBvc rr s
  | .bvs rr => Sys2Proof.Machine.execBvs rr s
  | .bcc rr => Sys2Proof.Machine.execBcc rr s
  | .bcs rr => Sys2Proof.Machine.execBcs rr s
  | .bne rr => Sys2Proof.Machine.execBne rr s
  | .beq rr => Sys2Proof.Machine.execBeq rr s
  | .jmp o => Sys2Proof.Machine.execJmp o s
  | .jsr hhll => Sys2Proof.Machine.execJsr hhll s
  | .rts => Sys2Proof.Machine.execRts s
  | .rti => Sys2Proof.Machine.execRti s
  -- flag operations, system: `45_flag_system.md`
  | .clc => Sys2Proof.Machine.execClc s
  | .sec => Sys2Proof.Machine.execSec s
  | .cli => Sys2Proof.Machine.execCli s
  | .sei => Sys2Proof.Machine.execSei s
  | .cld => Sys2Proof.Machine.execCld s
  | .sed => Sys2Proof.Machine.execSed s
  | .clv => Sys2Proof.Machine.execClv s
  | .brk => Sys2Proof.Machine.execBrk s
  | .nop => Sys2Proof.Machine.execNop s
  | .jam _ => Sys2Proof.Machine.execJam s
  -- undocumented: `46_undocumented.md`
  | .nopu _ o => Sys2Proof.Machine.execNopu o s
  | .lax o => Sys2Proof.Machine.execLax o s
  | .sax o => Sys2Proof.Machine.execSax o s
  | .dcp o => Sys2Proof.Machine.execDcp o s
  | .isc o => Sys2Proof.Machine.execIsc o s
  | .slo o => Sys2Proof.Machine.execSlo o s
  | .rla o => Sys2Proof.Machine.execRla o s
  | .sre o => Sys2Proof.Machine.execSre o s
  | .rra o => Sys2Proof.Machine.execRra o s
  | .alr ii => Sys2Proof.Machine.execAlr ii s
  | .anc _ ii => Sys2Proof.Machine.execAnc ii s
  | .arr ii => Sys2Proof.Machine.execArr ii s
  | .sbx ii => Sys2Proof.Machine.execSbx ii s
  | .usb ii => Sys2Proof.Machine.execUsb ii s
  | .las hhll => Sys2Proof.Machine.execLas hhll s
  | .ane ii => Sys2Proof.Machine.execAne ii s
  | .lxa ii => Sys2Proof.Machine.execLxa ii s
  | .sha o => Sys2Proof.Machine.execSha o s
  | .shx hhll => Sys2Proof.Machine.execShx hhll s
  | .shy hhll => Sys2Proof.Machine.execShy hhll s
  | .tas hhll => Sys2Proof.Machine.execTas hhll s

end Sys2Proof.Machine
end

