-- ==== Sys2Proof/WellFormed.lean ====
section
/-! DEFINITION. Which instruction terms are instructions of the machine: the modes an instruction has, from the
**Operands** line of its rule (`30_encoding.md` R86 and R120 collect them). -/

namespace Sys2Proof

/-- How many undocumented NOP bytes a mode has (`30_encoding.md` R86, row NOP*). -/
def nopuCount : Mode → Nat
  | .imp => 6
  | .imm => 5
  | .zpg => 3
  | .zpgx => 6
  | .abs => 1
  | .absx => 6
  | _ => 0

/-- The modes of the eight-mode accumulator instructions (LDA, ADC, SBC, CMP, AND, ORA, EOR). -/
def accumulatorModes : List Mode := [.imm, .zpg, .zpgx, .abs, .absx, .absy, .indx, .indy]

/-- The modes of the shifts and rotates. -/
def shiftModes : List Mode := [.acc, .zpg, .zpgx, .abs, .absx]

/-- The modes of the composite read-modify-write instructions. -/
def compositeModes : List Mode := [.zpg, .zpgx, .abs, .absx, .absy, .indx, .indy]

/-- A term is well formed when its instruction has its mode. -/
def Instr.wf : Instr → Bool
  | .lda o | .adc o | .sbc o | .cmp o | .and o | .ora o | .eor o => accumulatorModes.contains o.mode
  | .ldx o => [Mode.imm, .zpg, .zpgy, .abs, .absy].contains o.mode
  | .ldy o => [Mode.imm, .zpg, .zpgx, .abs, .absx].contains o.mode
  | .sta o => [Mode.zpg, .zpgx, .abs, .absx, .absy, .indx, .indy].contains o.mode
  | .stx o => [Mode.zpg, .zpgy, .abs].contains o.mode
  | .sty o => [Mode.zpg, .zpgx, .abs].contains o.mode
  | .cpx o | .cpy o => [Mode.imm, .zpg, .abs].contains o.mode
  | .bit o => [Mode.zpg, .abs].contains o.mode
  | .asl o | .lsr o | .rol o | .ror o => shiftModes.contains o.mode
  | .inc o | .dec o => [Mode.zpg, .zpgx, .abs, .absx].contains o.mode
  | .jmp o => [Mode.abs, .ind].contains o.mode
  | .nopu k o => decide (k.val < nopuCount o.mode)
  | .lax o => [Mode.zpg, .zpgy, .abs, .absy, .indx, .indy].contains o.mode
  | .sax o => [Mode.zpg, .zpgy, .abs, .indx].contains o.mode
  | .dcp o | .isc o | .slo o | .rla o | .sre o | .rra o => compositeModes.contains o.mode
  | .sha o => [Mode.absy, .indy].contains o.mode
  | .tax | .tay | .tsx | .txa | .tya | .txs | .pha | .php | .pla | .plp => true
  | .inx | .iny | .dex | .dey | .jsr _ | .rts | .rti => true
  | .bpl _ | .bmi _ | .bvc _ | .bvs _ | .bcc _ | .bcs _ | .bne _ | .beq _ => true
  | .clc | .sec | .cli | .sei | .cld | .sed | .clv | .brk | .nop | .jam _ => true
  | .alr _ | .anc _ _ | .arr _ | .sbx _ | .usb _ | .las _ => true
  | .ane _ | .lxa _ | .shx _ | .shy _ | .tas _ => true

end Sys2Proof
end

