-- ==== Sys2Proof/Decode.lean ====
section
/-! DEFINITION. The decoder, total on any bytes, from the opcode matrix of `30_encoding.md` R84; and after it the
encoder, from the table by mnemonic of R86. The byte values are the spec's decision D1. -/

namespace Sys2Proof

open Sys2Proof.Machine (word hiByte loByte)

/-- An entry of the opcode table (`10_state.md` R35): the addressing mode, and the instruction that the entry makes
of the two bytes after the opcode byte. A mode that has fewer operand bytes does not look at the rest. -/
structure Entry where
  mode : Mode
  build : Byte → Byte → Instr

/-- The operand of a mode from the bytes after the opcode byte, low byte first (R81, R82). -/
def operandOf (m : Mode) (b1 b2 : Byte) : Operand :=
  match m with
  | .imp => .imp
  | .acc => .acc
  | .imm => .imm b1
  | .zpg => .zpg b1
  | .zpgx => .zpgx b1
  | .zpgy => .zpgy b1
  | .abs => .abs (word b2 b1)
  | .absx => .absx (word b2 b1)
  | .absy => .absy (word b2 b1)
  | .ind => .ind (word b2 b1)
  | .indx => .indx b1
  | .indy => .indy b1
  | .rel => .rel b1

/-- A cell of the matrix in mode IMP. -/
def implied (i : Instr) : Entry := ⟨.imp, fun _ _ => i⟩

/-- A cell for an instruction that has several modes. -/
def operandOp (f : Operand → Instr) (m : Mode) : Entry := ⟨m, fun b1 b2 => f (operandOf m b1 b2)⟩

/-- A cell for an instruction whose only mode has one operand byte. -/
def byteOp (f : Byte → Instr) (m : Mode) : Entry := ⟨m, fun b1 _ => f b1⟩

/-- A cell for an instruction whose only mode has two operand bytes. -/
def wordOp (f : Word → Instr) (m : Mode) : Entry := ⟨m, fun b1 b2 => f (word b2 b1)⟩

/-- Row 0x of the opcode matrix (R84). -/
def opcodeRow0 : List Entry := [
  implied .brk, operandOp .ora .indx, implied (.jam 0), operandOp .slo .indx,
  operandOp (.nopu 0) .zpg, operandOp .ora .zpg, operandOp .asl .zpg, operandOp .slo .zpg,
  implied .php, operandOp .ora .imm, operandOp .asl .acc, byteOp (.anc 0) .imm,
  operandOp (.nopu 0) .abs, operandOp .ora .abs, operandOp .asl .abs, operandOp .slo .abs]

/-- Row 1x of the opcode matrix (R84). -/
def opcodeRow1 : List Entry := [
  byteOp .bpl .rel, operandOp .ora .indy, implied (.jam 1), operandOp .slo .indy,
  operandOp (.nopu 0) .zpgx, operandOp .ora .zpgx, operandOp .asl .zpgx, operandOp .slo .zpgx,
  implied .clc, operandOp .ora .absy, operandOp (.nopu 0) .imp, operandOp .slo .absy,
  operandOp (.nopu 0) .absx, operandOp .ora .absx, operandOp .asl .absx, operandOp .slo .absx]

/-- Row 2x of the opcode matrix (R84). -/
def opcodeRow2 : List Entry := [
  wordOp .jsr .abs, operandOp .and .indx, implied (.jam 2), operandOp .rla .indx,
  operandOp .bit .zpg, operandOp .and .zpg, operandOp .rol .zpg, operandOp .rla .zpg,
  implied .plp, operandOp .and .imm, operandOp .rol .acc, byteOp (.anc 1) .imm,
  operandOp .bit .abs, operandOp .and .abs, operandOp .rol .abs, operandOp .rla .abs]

/-- Row 3x of the opcode matrix (R84). -/
def opcodeRow3 : List Entry := [
  byteOp .bmi .rel, operandOp .and .indy, implied (.jam 3), operandOp .rla .indy,
  operandOp (.nopu 1) .zpgx, operandOp .and .zpgx, operandOp .rol .zpgx, operandOp .rla .zpgx,
  implied .sec, operandOp .and .absy, operandOp (.nopu 1) .imp, operandOp .rla .absy,
  operandOp (.nopu 1) .absx, operandOp .and .absx, operandOp .rol .absx, operandOp .rla .absx]

/-- Row 4x of the opcode matrix (R84). -/
def opcodeRow4 : List Entry := [
  implied .rti, operandOp .eor .indx, implied (.jam 4), operandOp .sre .indx,
  operandOp (.nopu 1) .zpg, operandOp .eor .zpg, operandOp .lsr .zpg, operandOp .sre .zpg,
  implied .pha, operandOp .eor .imm, operandOp .lsr .acc, byteOp .alr .imm,
  operandOp .jmp .abs, operandOp .eor .abs, operandOp .lsr .abs, operandOp .sre .abs]

/-- Row 5x of the opcode matrix (R84). -/
def opcodeRow5 : List Entry := [
  byteOp .bvc .rel, operandOp .eor .indy, implied (.jam 5), operandOp .sre .indy,
  operandOp (.nopu 2) .zpgx, operandOp .eor .zpgx, operandOp .lsr .zpgx, operandOp .sre .zpgx,
  implied .cli, operandOp .eor .absy, operandOp (.nopu 2) .imp, operandOp .sre .absy,
  operandOp (.nopu 2) .absx, operandOp .eor .absx, operandOp .lsr .absx, operandOp .sre .absx]

/-- Row 6x of the opcode matrix (R84). -/
def opcodeRow6 : List Entry := [
  implied .rts, operandOp .adc .indx, implied (.jam 6), operandOp .rra .indx,
  operandOp (.nopu 2) .zpg, operandOp .adc .zpg, operandOp .ror .zpg, operandOp .rra .zpg,
  implied .pla, operandOp .adc .imm, operandOp .ror .acc, byteOp .arr .imm,
  operandOp .jmp .ind, operandOp .adc .abs, operandOp .ror .abs, operandOp .rra .abs]

/-- Row 7x of the opcode matrix (R84). -/
def opcodeRow7 : List Entry := [
  byteOp .bvs .rel, operandOp .adc .indy, implied (.jam 7), operandOp .rra .indy,
  operandOp (.nopu 3) .zpgx, operandOp .adc .zpgx, operandOp .ror .zpgx, operandOp .rra .zpgx,
  implied .sei, operandOp .adc .absy, operandOp (.nopu 3) .imp, operandOp .rra .absy,
  operandOp (.nopu 3) .absx, operandOp .adc .absx, operandOp .ror .absx, operandOp .rra .absx]

/-- Row 8x of the opcode matrix (R84). -/
def opcodeRow8 : List Entry := [
  operandOp (.nopu 0) .imm, operandOp .sta .indx, operandOp (.nopu 1) .imm, operandOp .sax .indx,
  operandOp .sty .zpg, operandOp .sta .zpg, operandOp .stx .zpg, operandOp .sax .zpg,
  implied .dey, operandOp (.nopu 2) .imm, implied .txa, byteOp .ane .imm,
  operandOp .sty .abs, operandOp .sta .abs, operandOp .stx .abs, operandOp .sax .abs]

/-- Row 9x of the opcode matrix (R84). -/
def opcodeRow9 : List Entry := [
  byteOp .bcc .rel, operandOp .sta .indy, implied (.jam 8), operandOp .sha .indy,
  operandOp .sty .zpgx, operandOp .sta .zpgx, operandOp .stx .zpgy, operandOp .sax .zpgy,
  implied .tya, operandOp .sta .absy, implied .txs, wordOp .tas .absy,
  wordOp .shy .absx, operandOp .sta .absx, wordOp .shx .absy, operandOp .sha .absy]

/-- Row Ax of the opcode matrix (R84). -/
def opcodeRowA : List Entry := [
  operandOp .ldy .imm, operandOp .lda .indx, operandOp .ldx .imm, operandOp .lax .indx,
  operandOp .ldy .zpg, operandOp .lda .zpg, operandOp .ldx .zpg, operandOp .lax .zpg,
  implied .tay, operandOp .lda .imm, implied .tax, byteOp .lxa .imm,
  operandOp .ldy .abs, operandOp .lda .abs, operandOp .ldx .abs, operandOp .lax .abs]

/-- Row Bx of the opcode matrix (R84). -/
def opcodeRowB : List Entry := [
  byteOp .bcs .rel, operandOp .lda .indy, implied (.jam 9), operandOp .lax .indy,
  operandOp .ldy .zpgx, operandOp .lda .zpgx, operandOp .ldx .zpgy, operandOp .lax .zpgy,
  implied .clv, operandOp .lda .absy, implied .tsx, wordOp .las .absy,
  operandOp .ldy .absx, operandOp .lda .absx, operandOp .ldx .absy, operandOp .lax .absy]

/-- Row Cx of the opcode matrix (R84). -/
def opcodeRowC : List Entry := [
  operandOp .cpy .imm, operandOp .cmp .indx, operandOp (.nopu 3) .imm, operandOp .dcp .indx,
  operandOp .cpy .zpg, operandOp .cmp .zpg, operandOp .dec .zpg, operandOp .dcp .zpg,
  implied .iny, operandOp .cmp .imm, implied .dex, byteOp .sbx .imm,
  operandOp .cpy .abs, operandOp .cmp .abs, operandOp .dec .abs, operandOp .dcp .abs]

/-- Row Dx of the opcode matrix (R84). -/
def opcodeRowD : List Entry := [
  byteOp .bne .rel, operandOp .cmp .indy, implied (.jam 10), operandOp .dcp .indy,
  operandOp (.nopu 4) .zpgx, operandOp .cmp .zpgx, operandOp .dec .zpgx, operandOp .dcp .zpgx,
  implied .cld, operandOp .cmp .absy, operandOp (.nopu 4) .imp, operandOp .dcp .absy,
  operandOp (.nopu 4) .absx, operandOp .cmp .absx, operandOp .dec .absx, operandOp .dcp .absx]

/-- Row Ex of the opcode matrix (R84). -/
def opcodeRowE : List Entry := [
  operandOp .cpx .imm, operandOp .sbc .indx, operandOp (.nopu 4) .imm, operandOp .isc .indx,
  operandOp .cpx .zpg, operandOp .sbc .zpg, operandOp .inc .zpg, operandOp .isc .zpg,
  implied .inx, operandOp .sbc .imm, implied .nop, byteOp .usb .imm,
  operandOp .cpx .abs, operandOp .sbc .abs, operandOp .inc .abs, operandOp .isc .abs]

/-- Row Fx of the opcode matrix (R84). -/
def opcodeRowF : List Entry := [
  byteOp .beq .rel, operandOp .sbc .indy, implied (.jam 11), operandOp .isc .indy,
  operandOp (.nopu 5) .zpgx, operandOp .sbc .zpgx, operandOp .inc .zpgx, operandOp .isc .zpgx,
  implied .sed, operandOp .sbc .absy, operandOp (.nopu 5) .imp, operandOp .isc .absy,
  operandOp (.nopu 5) .absx, operandOp .sbc .absx, operandOp .inc .absx, operandOp .isc .absx]

/-- The opcode matrix (R84): row = high nibble of the opcode byte, column = low nibble. -/
def opcodeMatrix : List (List Entry) :=
  [opcodeRow0, opcodeRow1, opcodeRow2, opcodeRow3, opcodeRow4, opcodeRow5, opcodeRow6, opcodeRow7,
   opcodeRow8, opcodeRow9, opcodeRowA, opcodeRowB, opcodeRowC, opcodeRowD, opcodeRowE, opcodeRowF]

/-- The table lookup of R83. The matrix has all 256 cells, so the default entry is never taken. -/
def tableEntry (opcode : Byte) : Entry :=
  (opcodeMatrix.getD (opcode.toNat / 16) []).getD (opcode.toNat % 16) (implied .nop)

/-- The instruction that the opcode byte and the two bytes after it are. -/
def instrOf (opcode b1 b2 : Byte) : Instr := (tableEntry opcode).build b1 b2

/-- Why a list of bytes is no instruction. No opcode byte is illegal (R87): bytes can only be missing. -/
inductive DecodeError
  /-- There is no opcode byte. -/
  | noOpcode
  /-- The opcode byte's mode has more operand bytes than there are. -/
  | truncated (opcode : Byte)
  deriving DecidableEq, Repr

/-- Decode the instruction at the front of a list of bytes, and give the bytes after it (R80, R83, R88). -/
def decode : List Byte → Except DecodeError (Instr × List Byte)
  | [] => .error .noOpcode
  | opcode :: rest =>
    match (tableEntry opcode).mode.operandLength, rest with
    | 0, _ => .ok (instrOf opcode 0 0, rest)
    | 1, b1 :: rest' => .ok (instrOf opcode b1 0, rest')
    | 2, b1 :: b2 :: rest' => .ok (instrOf opcode b1 b2, rest')
    | _, _ => .error (.truncated opcode)

/-- The bytes of the host's number `w` of `nbits` bits: the first byte is bits 7..0, the second bits 15..8, the third
bits 23..16, and every bit from `nbits` on is 0. -/
def tableBytes (nbits w : Nat) : List Byte :=
  let v := w % 2 ^ nbits
  [BitVec.ofNat 8 v, BitVec.ofNat 8 (v / 256), BitVec.ofNat 8 (v / 65536)]

/-- The instruction this decoder reads from an instruction word as the opcode table numbers its bits. -/
def decodeTableWord (nbits w : Nat) : Option Instr :=
  match decode (tableBytes nbits w) with
  | .ok (i, _) => some i
  | .error _ => none

/-- The operand bytes of an operand, in memory order (R81). -/
def Operand.bytes : Operand → List Byte
  | .imp | .acc => []
  | .imm b | .zpg b | .zpgx b | .zpgy b | .indx b | .indy b | .rel b => [b]
  | .abs w | .absx w | .absy w | .ind w => [loByte w, hiByte w]

/-- The twelve JAM bytes (R86). -/
def jamBytes : List Byte := [0x02, 0x12, 0x22, 0x32, 0x42, 0x52, 0x62, 0x72, 0x92, 0xB2, 0xD2, 0xF2]

/-- The two ANC bytes (R86). -/
def ancBytes : List Byte := [0x0B, 0x2B]

/-- The undocumented NOP bytes of a mode (R86, row NOP*). -/
def nopuBytes : Mode → List Byte
  | .imp => [0x1A, 0x3A, 0x5A, 0x7A, 0xDA, 0xFA]
  | .imm => [0x80, 0x82, 0x89, 0xC2, 0xE2]
  | .zpg => [0x04, 0x44, 0x64]
  | .zpgx => [0x14, 0x34, 0x54, 0x74, 0xD4, 0xF4]
  | .abs => [0x0C]
  | .absx => [0x1C, 0x3C, 0x5C, 0x7C, 0xDC, 0xFC]
  | _ => []

/-- The opcode byte of an instruction (R86: the bytes per mode); `none` where it has not the mode. -/
def opcodeOf : Instr → Option Byte
  | .lda o => [(Mode.imm, 0xA9), (.zpg, 0xA5), (.zpgx, 0xB5), (.abs, 0xAD), (.absx, 0xBD), (.absy, 0xB9), (.indx, 0xA1), (.indy, 0xB1)].lookup o.mode
  | .ldx o => [(Mode.imm, 0xA2), (.zpg, 0xA6), (.zpgy, 0xB6), (.abs, 0xAE), (.absy, 0xBE)].lookup o.mode
  | .ldy o => [(Mode.imm, 0xA0), (.zpg, 0xA4), (.zpgx, 0xB4), (.abs, 0xAC), (.absx, 0xBC)].lookup o.mode
  | .sta o => [(Mode.zpg, 0x85), (.zpgx, 0x95), (.abs, 0x8D), (.absx, 0x9D), (.absy, 0x99), (.indx, 0x81), (.indy, 0x91)].lookup o.mode
  | .stx o => [(Mode.zpg, 0x86), (.zpgy, 0x96), (.abs, 0x8E)].lookup o.mode
  | .sty o => [(Mode.zpg, 0x84), (.zpgx, 0x94), (.abs, 0x8C)].lookup o.mode
  | .tax => some 0xAA
  | .tay => some 0xA8
  | .tsx => some 0xBA
  | .txa => some 0x8A
  | .tya => some 0x98
  | .txs => some 0x9A
  | .pha => some 0x48
  | .php => some 0x08
  | .pla => some 0x68
  | .plp => some 0x28
  | .adc o => [(Mode.imm, 0x69), (.zpg, 0x65), (.zpgx, 0x75), (.abs, 0x6D), (.absx, 0x7D), (.absy, 0x79), (.indx, 0x61), (.indy, 0x71)].lookup o.mode
  | .sbc o => [(Mode.imm, 0xE9), (.zpg, 0xE5), (.zpgx, 0xF5), (.abs, 0xED), (.absx, 0xFD), (.absy, 0xF9), (.indx, 0xE1), (.indy, 0xF1)].lookup o.mode
  | .cmp o => [(Mode.imm, 0xC9), (.zpg, 0xC5), (.zpgx, 0xD5), (.abs, 0xCD), (.absx, 0xDD), (.absy, 0xD9), (.indx, 0xC1), (.indy, 0xD1)].lookup o.mode
  | .cpx o => [(Mode.imm, 0xE0), (.zpg, 0xE4), (.abs, 0xEC)].lookup o.mode
  | .cpy o => [(Mode.imm, 0xC0), (.zpg, 0xC4), (.abs, 0xCC)].lookup o.mode
  | .and o => [(Mode.imm, 0x29), (.zpg, 0x25), (.zpgx, 0x35), (.abs, 0x2D), (.absx, 0x3D), (.absy, 0x39), (.indx, 0x21), (.indy, 0x31)].lookup o.mode
  | .ora o => [(Mode.imm, 0x09), (.zpg, 0x05), (.zpgx, 0x15), (.abs, 0x0D), (.absx, 0x1D), (.absy, 0x19), (.indx, 0x01), (.indy, 0x11)].lookup o.mode
  | .eor o => [(Mode.imm, 0x49), (.zpg, 0x45), (.zpgx, 0x55), (.abs, 0x4D), (.absx, 0x5D), (.absy, 0x59), (.indx, 0x41), (.indy, 0x51)].lookup o.mode
  | .bit o => [(Mode.zpg, 0x24), (.abs, 0x2C)].lookup o.mode
  | .asl o => [(Mode.acc, 0x0A), (.zpg, 0x06), (.zpgx, 0x16), (.abs, 0x0E), (.absx, 0x1E)].lookup o.mode
  | .lsr o => [(Mode.acc, 0x4A), (.zpg, 0x46), (.zpgx, 0x56), (.abs, 0x4E), (.absx, 0x5E)].lookup o.mode
  | .rol o => [(Mode.acc, 0x2A), (.zpg, 0x26), (.zpgx, 0x36), (.abs, 0x2E), (.absx, 0x3E)].lookup o.mode
  | .ror o => [(Mode.acc, 0x6A), (.zpg, 0x66), (.zpgx, 0x76), (.abs, 0x6E), (.absx, 0x7E)].lookup o.mode
  | .inc o => [(Mode.zpg, 0xE6), (.zpgx, 0xF6), (.abs, 0xEE), (.absx, 0xFE)].lookup o.mode
  | .dec o => [(Mode.zpg, 0xC6), (.zpgx, 0xD6), (.abs, 0xCE), (.absx, 0xDE)].lookup o.mode
  | .inx => some 0xE8
  | .iny => some 0xC8
  | .dex => some 0xCA
  | .dey => some 0x88
  | .bpl _ => some 0x10
  | .bmi _ => some 0x30
  | .bvc _ => some 0x50
  | .bvs _ => some 0x70
  | .bcc _ => some 0x90
  | .bcs _ => some 0xB0
  | .bne _ => some 0xD0
  | .beq _ => some 0xF0
  | .jmp o => [(Mode.abs, 0x4C), (.ind, 0x6C)].lookup o.mode
  | .jsr _ => some 0x20
  | .rts => some 0x60
  | .rti => some 0x40
  | .clc => some 0x18
  | .sec => some 0x38
  | .cli => some 0x58
  | .sei => some 0x78
  | .cld => some 0xD8
  | .sed => some 0xF8
  | .clv => some 0xB8
  | .brk => some 0x00
  | .nop => some 0xEA
  | .jam k => jamBytes[k.val]?
  | .nopu k o => (nopuBytes o.mode)[k.val]?
  | .lax o => [(Mode.zpg, 0xA7), (.zpgy, 0xB7), (.abs, 0xAF), (.absy, 0xBF), (.indx, 0xA3), (.indy, 0xB3)].lookup o.mode
  | .sax o => [(Mode.zpg, 0x87), (.zpgy, 0x97), (.abs, 0x8F), (.indx, 0x83)].lookup o.mode
  | .dcp o => [(Mode.zpg, 0xC7), (.zpgx, 0xD7), (.abs, 0xCF), (.absx, 0xDF), (.absy, 0xDB), (.indx, 0xC3), (.indy, 0xD3)].lookup o.mode
  | .isc o => [(Mode.zpg, 0xE7), (.zpgx, 0xF7), (.abs, 0xEF), (.absx, 0xFF), (.absy, 0xFB), (.indx, 0xE3), (.indy, 0xF3)].lookup o.mode
  | .slo o => [(Mode.zpg, 0x07), (.zpgx, 0x17), (.abs, 0x0F), (.absx, 0x1F), (.absy, 0x1B), (.indx, 0x03), (.indy, 0x13)].lookup o.mode
  | .rla o => [(Mode.zpg, 0x27), (.zpgx, 0x37), (.abs, 0x2F), (.absx, 0x3F), (.absy, 0x3B), (.indx, 0x23), (.indy, 0x33)].lookup o.mode
  | .sre o => [(Mode.zpg, 0x47), (.zpgx, 0x57), (.abs, 0x4F), (.absx, 0x5F), (.absy, 0x5B), (.indx, 0x43), (.indy, 0x53)].lookup o.mode
  | .rra o => [(Mode.zpg, 0x67), (.zpgx, 0x77), (.abs, 0x6F), (.absx, 0x7F), (.absy, 0x7B), (.indx, 0x63), (.indy, 0x73)].lookup o.mode
  | .alr _ => some 0x4B
  | .anc k _ => ancBytes[k.val]?
  | .arr _ => some 0x6B
  | .sbx _ => some 0xCB
  | .usb _ => some 0xEB
  | .las _ => some 0xBB
  | .ane _ => some 0x8B
  | .lxa _ => some 0xAB
  | .sha o => [(Mode.absy, 0x9F), (.indy, 0x93)].lookup o.mode
  | .shx _ => some 0x9E
  | .shy _ => some 0x9C
  | .tas _ => some 0x9B

/-- The bytes of an instruction, opcode byte first (R80, R81). -/
def encode (i : Instr) : Option (List Byte) := (opcodeOf i).map (· :: i.operand.bytes)

end Sys2Proof
end

