-- ==== Sys2Proof/Machine/Fetch.lean ====
section
/-! DEFINITION. Fetching: the instruction at the program counter, and what fetching it does before its execute step
(`40_tick_and_addressing.md` R100 to R104 and the operand bytes of R105 to R117). -/

namespace Sys2Proof.Machine

/-- The three bytes from the program counter on, modulo 65536 (`20_memory.md` R55). -/
def bytesAtPc (s : State) : List Byte := [s.peek s.pc, s.peek (s.pc + 1), s.peek (s.pc + 2)]

/-- The instruction at the program counter (R103). -/
def instrAt (s : State) : Instr := instrOf (s.peek s.pc) (s.peek (s.pc + 1)) (s.peek (s.pc + 2))

/-- How many operand bytes the addressing-mode routine itself reads (R121): in IMM and REL it reads none, the execute
step does. -/
def operandBytesRead : Mode → Nat
  | .imp | .acc | .imm | .rel => 0
  | .zpg | .zpgx | .zpgy | .indx | .indy => 1
  | .abs | .absx | .absy | .ind => 2

/-- `n` bus reads of successive bytes from an address on, in ascending order (`20_memory.md` R67). -/
def readBytes : Nat → Word → State → State
  | 0, _, s => s
  | n + 1, a, s => readBytes n (a + 1) (memRead a s).2

/-- The state when the execute step of an instruction of a mode begins, the pointer reads of the mode aside: the opcode
byte and the operand bytes read, PC past the last byte of the instruction (R102, R121). -/
def fetched (m : Mode) (s : State) : State :=
  (readBytes (1 + operandBytesRead m) s.pc s).setPc (s.pc + 1 + BitVec.ofNat 16 m.operandLength)

/-- Fetch and decode (R102, R103). -/
def fetch (s : State) : Instr × State := (instrAt s, fetched (instrAt s).operand.mode s)

end Sys2Proof.Machine
end

