-- ==== Sys2Proof/Machine/Step.lean ====
section
/-! DEFINITION. One step of the machine is one tick() (`40_tick_and_addressing.md` R100). -/

namespace Sys2Proof.Machine

/-- tick() (R100): in the Jammed state nothing happens (R101); else fetch, decode, resolve and execute one
instruction. -/
def step (s : State) : Host.Outcome State Fault Refusal :=
  if s.halted then .next s else exec (fetch s).1 (fetch s).2

/-- The bytes of a list stored at successive addresses from one on, modulo 65536, with no bus access of the core. -/
def storeBytes : List Byte → Word → Memory → Memory
  | [], _, m => m
  | b :: bs, a, m => storeBytes bs (a + 1) (m.write a.toNat b)

/-- The state with an instruction word of the opcode table placed at the program counter, Running, so that the very next
step fetches and runs it (log entry 7). -/
def State.withFetchWord (s : State) (nbits w : Nat) : State :=
  { s with mem := storeBytes (tableBytes nbits w) s.pc s.mem, halted := false }

end Sys2Proof.Machine
end

