-- ==== Sys2Proof/Machine/HostInputs.lean ====
section
/-! DEFINITION. The host inputs beside tick(): reset() (`70_reset_and_hazards.md` R330, R331), irq() and nmi()
(`60_exceptions.md` R302 to R306, R313), and a run as a finite list of inputs (`70_reset_and_hazards.md` R338). -/

namespace Sys2Proof.Machine

/-- reset() (R330): the registers cleared, Running, PC from the reset vector by two bus reads, memory as it was. -/
def resetInput (s : State) : State :=
  let cleared := { s with a := 0x00, x := 0x00, y := 0x00, sp := 0x00, p := 0x00, halted := false }
  let target := read16 Config.resetVector cleared
  target.2.setPc target.1

/-- `InterruptEntry(vector)` (R303): the unmodified PC and the status byte with bit 5 set and B clear are saved. -/
def interruptEntry (vector : Word) (s : State) : State := takeTrap s.pc (interruptForm s.p) vector s

/-- irq() (R304, R306; R313 under `refuse`): dropped while Jammed or masked by I. -/
def irqInput (policy : Config.InterruptPolicy) (s : State) : Out :=
  match policy with
  | .modelled => .next (if s.halted || s.flag .i then s else interruptEntry Config.irqVector s)
  | .refuse => .refused .interruptInput

/-- nmi() (R305, R306; R313 under `refuse`): dropped while Jammed only. -/
def nmiInput (policy : Config.InterruptPolicy) (s : State) : Out :=
  match policy with
  | .modelled => .next (if s.halted then s else interruptEntry Config.nmiVector s)
  | .refuse => .refused .interruptInput

/-- The four host inputs (`70_reset_and_hazards.md` R338). -/
inductive HostInput
  | reset
  | tick
  | irq
  | nmi
  deriving DecidableEq, Repr

/-- What one host input does. -/
def applyInput (i : HostInput) (s : State) : Out :=
  match i with
  | .reset => .next (resetInput s)
  | .tick => step s
  | .irq => irqInput Config.interruptPolicy s
  | .nmi => nmiInput Config.interruptPolicy s

/-- A run: inputs in the order of the host's calls (`60_exceptions.md` R307), up to the first fault or refusal. -/
def runInputs : List HostInput → State → Out
  | [], s => .next s
  | i :: is, s =>
    match applyInput i s with
    | .next t => runInputs is t
    | .fault r => .fault r
    | .refused r => .refused r

end Sys2Proof.Machine
end

