-- ==== Sys2Proof/Safety.lean ====
section
/-! DEFINITION. The terms claims are stated in: what an instruction leaves as it was, what it reads and writes on the
bus, which instructions the spec lets write a flag or a register, and what a safe run is. -/

namespace Sys2Proof.Machine

/-! ## What is left as it was -/

/-- The four 8-bit registers beside the status register (`10_state.md` R20 to R22). -/
inductive Reg
  | a | x | y | sp
  deriving DecidableEq, Repr

/-- The value of a register. -/
def State.reg (s : State) : Reg → Byte
  | .a => s.a
  | .x => s.x
  | .y => s.y
  | .sp => s.sp

/-- Every register but those named, every flag but those named, and the Running state are as they were. -/
def Keeps (rs : List Reg) (fs : List Flag) (s t : State) : Prop :=
  (∀ r, r ∉ rs → t.reg r = s.reg r) ∧ (∀ f, f ∉ fs → t.flag f = s.flag f) ∧ t.halted = s.halted

/-- Every byte of memory reads as before. -/
def BytesKept (s t : State) : Prop := ∀ b, t.peek b = s.peek b

/-- Every byte of memory outside the addresses named reads as before. -/
def BytesKeptBut (l : List Word) (s t : State) : Prop := ∀ b, b ∉ l → t.peek b = s.peek b

/-- The bus accesses between two states, in the order they were made: these and no others (`20_memory.md` R67, R68). -/
def Accessed (l : List BusAccess) (s t : State) : Prop := t.bus = l.reverse ++ s.bus

/-- N and Z describe a result (`10_state.md` R33). -/
def NZof (v : Byte) (t : State) : Prop := t.flag .n = v.getLsbD 7 ∧ t.flag .z = decide (v = 0)

/-! ## Operands -/

/-- The operand value `M` that `OperandRead()` gives (`40_tick_and_addressing.md` R118). -/
def operandValue (o : Operand) (s : State) : Byte :=
  match o with
  | .acc => s.a
  | .imm ii => ii
  | .rel rr => rr
  | _ => s.peek (effAddr o s)

/-- The pointer reads of a mode (R114 to R116, R121), low byte first. -/
def pointerReads (o : Operand) (s : State) : List BusAccess :=
  match o with
  | .ind w => [.read w (s.peek w), .read (nextInPage w) (s.peek (nextInPage w))]
  | .indx zz =>
    [.read (zext16 (zz + s.x)) (s.peek (zext16 (zz + s.x))),
     .read (zext16 (zz + s.x + 1)) (s.peek (zext16 (zz + s.x + 1)))]
  | .indy zz =>
    [.read (zext16 zz) (s.peek (zext16 zz)), .read (zext16 (zz + 1)) (s.peek (zext16 (zz + 1)))]
  | _ => []

/-- The one bus read of `OperandRead()`; none in accumulator mode. -/
def operandReads (o : Operand) (s : State) : List BusAccess :=
  match o with
  | .acc => []
  | _ => [.read (effAddr o s) (operandValue o s)]

/-- The one bus write of `OperandWrite(v)`; none in accumulator mode. -/
def operandWrites (o : Operand) (v : Byte) (s : State) : List BusAccess :=
  match o with
  | .acc => []
  | _ => [.write (effAddr o s) v]

/-- A byte stored to an operand, computed in the state before: in accumulator mode `A` holds it and memory is as it was;
else the byte at the effective address holds it, and every other byte is as it was. -/
def StoredTo (o : Operand) (v : Byte) (s t : State) : Prop :=
  match o with
  | .acc => t.a = v ∧ BytesKept s t
  | _ => t.peek (effAddr o s) = v ∧ BytesKeptBut [effAddr o s] s t

/-- The register an operand is, if it is one. -/
def operandReg : Operand → List Reg
  | .acc => [.a]
  | _ => []

/-! ## The three shapes of an effect -/

/-- An instruction that reads its operand and writes the named registers and flags only: no byte of memory changes, PC is
as the fetch left it, and the accesses are the pointer reads and the one operand read. -/
def ReadsOperand (o : Operand) (rs : List Reg) (fs : List Flag) (s t : State) : Prop :=
  Keeps rs fs s t ∧ BytesKept s t ∧ t.pc = s.pc ∧ Accessed (pointerReads o s ++ operandReads o s) s t

/-- An instruction that reads its operand once and stores one byte back to the same place (`43_shift_incdec.md` R186). -/
def ModifiesOperand (o : Operand) (r : Byte) (rs : List Reg) (fs : List Flag) (s t : State) : Prop :=
  StoredTo o r s t ∧ Keeps rs fs s t ∧ t.pc = s.pc ∧
    Accessed (pointerReads o s ++ operandReads o s ++ operandWrites o r s) s t

/-- An instruction without a bus access of its own: the named registers and flags only. -/
def RegistersOnly (rs : List Reg) (fs : List Flag) (s t : State) : Prop :=
  Keeps rs fs s t ∧ BytesKept s t ∧ t.pc = s.pc ∧ Accessed [] s t

/-- An instruction whose addressing-mode routine runs and which does nothing else (`46_undocumented.md` R250, R271). -/
def IgnoresOperand (o : Operand) (s t : State) : Prop :=
  Keeps [] [] s t ∧ BytesKept s t ∧ t.pc = s.pc ∧ Accessed (pointerReads o s) s t

/-! ## Instructions -/

/-- The instruction answers a next state, of which the rest is said. -/
def Completes (i : Instr) (s : State) (post : State → Prop) : Prop := ∃ t, exec i s = .next t ∧ post t

/-- The opcode bytes of an instruction with an operand, mode by mode: these modes and no others
(`30_encoding.md` R86). -/
def HasRows (f : Operand → Instr) (rows : List (Mode × Byte)) : Prop :=
  ∀ (o : Operand) (b : Byte), encode (f o) = some (b :: o.bytes) ↔ (o.mode, b) ∈ rows

/-- The instruction whose bytes these are, and they are its encoding. -/
def HasBytes (i : Instr) (bytes : List Byte) : Prop := encode i = some bytes ∧ decode bytes = .ok (i, [])

/-- Which instructions may write a flag: the "written by" columns of `10_state.md` R25. -/
def writesFlag : Flag → Instr → Bool
  | .n, i | .z, i =>
    match i with
    | .lda _ | .ldx _ | .ldy _ | .tax | .tay | .tsx | .txa | .tya | .pla | .adc _ | .sbc _ | .cmp _ | .cpx _ | .cpy _ => true
    | .and _ | .ora _ | .eor _ | .bit _ | .asl _ | .lsr _ | .rol _ | .ror _ | .inc _ | .dec _ => true
    | .inx | .iny | .dex | .dey | .plp | .rti => true
    | .lax _ | .dcp _ | .isc _ | .slo _ | .rla _ | .sre _ | .rra _ | .alr _ | .anc _ _ | .arr _ | .sbx _ | .usb _ => true
    | .las _ => true
    | _ => false
  | .v, i =>
    match i with
    | .adc _ | .sbc _ | .bit _ | .clv | .plp | .rti | .isc _ | .rra _ | .arr _ | .usb _ => true
    | _ => false
  | .u, _ => false
  | .b, _ => false
  | .d, i =>
    match i with
    | .cld | .sed | .plp | .rti => true
    | _ => false
  | .i, i =>
    match i with
    | .cli | .sei | .brk | .plp | .rti => true
    | _ => false
  | .c, i =>
    match i with
    | .adc _ | .sbc _ | .cmp _ | .cpx _ | .cpy _ | .asl _ | .lsr _ | .rol _ | .ror _ | .clc | .sec | .plp | .rti => true
    | .dcp _ | .isc _ | .slo _ | .rla _ | .sre _ | .rra _ | .alr _ | .anc _ _ | .arr _ | .sbx _ | .usb _ => true
    | _ => false

/-- Which instructions may write a register: the "written by" lists of `10_state.md` R20, R21 and R22. The shifts and
rotates write A in accumulator mode only (R20). -/
def writesReg : Reg → Instr → Bool
  | .a, i =>
    match i with
    | .lda _ | .pla | .txa | .tya | .adc _ | .sbc _ | .and _ | .ora _ | .eor _ => true
    | .asl o | .lsr o | .rol o | .ror o => decide (o.mode = .acc)
    | .lax _ | .isc _ | .slo _ | .rla _ | .sre _ | .rra _ | .alr _ | .anc _ _ | .arr _ | .usb _ | .las _ => true
    | _ => false
  | .x, i =>
    match i with
    | .ldx _ | .tax | .tsx | .inx | .dex | .lax _ | .sbx _ | .las _ => true
    | _ => false
  | .y, i =>
    match i with
    | .ldy _ | .tay | .iny | .dey => true
    | _ => false
  | .sp, i =>
    match i with
    | .txs | .pha | .php | .pla | .plp | .jsr _ | .rts | .rti | .brk | .las _ => true
    | _ => false

/-- Which instructions write PC in their execute step (`10_state.md` R23). -/
def writesPc : Instr → Bool
  | .bpl _ | .bmi _ | .bvc _ | .bvs _ | .bcc _ | .bcs _ | .bne _ | .beq _ => true
  | .jmp _ | .jsr _ | .rts | .rti | .brk => true
  | _ => false

/-- Where an instruction writes memory, computed in the state its execute step begins in: the effective address of a store
or a read-modify-write, the stack addresses of a push. -/
def bytesWritten (i : Instr) (s : State) : List Word :=
  match i with
  | .sta o | .stx o | .sty o | .sax o => [effAddr o s]
  | .asl o | .lsr o | .rol o | .ror o => if o.mode = .acc then [] else [effAddr o s]
  | .inc o | .dec o | .dcp o | .isc o | .slo o | .rla o | .sre o | .rra o => [effAddr o s]
  | .pha | .php => [stackAddr s.sp]
  | .jsr _ => [stackAddr s.sp, stackAddr (s.sp - 1)]
  | .brk => [stackAddr s.sp, stackAddr (s.sp - 1), stackAddr (s.sp - 2)]
  | .lda _ | .ldx _ | .ldy _ | .tax | .tay | .tsx | .txa | .tya | .txs | .pla | .plp => []
  | .adc _ | .sbc _ | .cmp _ | .cpx _ | .cpy _ | .and _ | .ora _ | .eor _ | .bit _ => []
  | .inx | .iny | .dex | .dey => []
  | .bpl _ | .bmi _ | .bvc _ | .bvs _ | .bcc _ | .bcs _ | .bne _ | .beq _ | .jmp _ | .rts | .rti => []
  | .clc | .sec | .cli | .sei | .cld | .sed | .clv | .nop | .jam _ => []
  | .nopu _ _ | .lax _ | .alr _ | .anc _ _ | .arr _ | .sbx _ | .usb _ | .las _ => []
  | .ane _ | .lxa _ | .sha _ | .shx _ | .shy _ | .tas _ => []

/-- The bus accesses by which a tick fetches an instruction: the opcode byte, then the operand bytes that the
addressing-mode routine reads, ascending (`20_memory.md` R67, `40_tick_and_addressing.md` R121). -/
def fetchReads (m : Mode) (s : State) : List BusAccess :=
  match operandBytesRead m with
  | 0 => [.read s.pc (s.peek s.pc)]
  | 1 => [.read s.pc (s.peek s.pc), .read (s.pc + 1) (s.peek (s.pc + 1))]
  | _ => [.read s.pc (s.peek s.pc), .read (s.pc + 1) (s.peek (s.pc + 1)), .read (s.pc + 2) (s.peek (s.pc + 2))]

/-- The state in which the execute step of the instruction at the program counter begins: only PC and the bus record
differ from the state before the tick. -/
def Fetched (i : Instr) (s t : State) : Prop :=
  t = { s with pc := s.pc + BitVec.ofNat 16 i.length, bus := (fetchReads i.operand.mode s).reverse ++ s.bus }

/-- A JAM opcode. -/
def isJam : Instr → Bool
  | .jam _ => true
  | _ => false

/-- A bus access that is a write. -/
def BusAccess.isWrite : BusAccess → Bool
  | .read _ _ => false
  | .write _ _ => true

/-- How many bus writes one instruction may make (`95_test_vectors.md` section 4): one, but JSR two and BRK three. -/
def writesAllowed : Instr → Nat
  | .jsr _ => 2
  | .brk => 3
  | _ => 1

/-! ## Safe runs -/

/-- The outcome is a next state: no fault, no refusal. -/
def Answers (o : Out) : Prop := ∃ t, o = .next t

/-- What every state of a run has, on a bus in canonical form. -/
def Inv (s : State) : Prop := s.mem.wf = true

/-- Bits 5 and 4 of the status register are clear (`10_state.md` R26). -/
def UnusedBitsClear (s : State) : Prop := s.flag .u = false ∧ s.flag .b = false

/-- A run of host inputs is safe when it ends in a state. -/
def SafeRun (inputs : List HostInput) (s : State) : Prop := Answers (runInputs inputs s)

/-- The state with one flag of the status register changed and nothing else. -/
def State.withFlag (s : State) (f : Flag) (v : Bool) : State := s.putFlag f v

/-- A function of states carried to outcomes. -/
def mapOut (g : State → State) : Out → Out
  | .next t => .next (g t)
  | .fault r => .fault r
  | .refused r => .refused r

end Sys2Proof.Machine
end

