-- ==== Sys2Proof/Certificates/Slice0/Obligations.lean ====
section
/-! DEFINITION. The statements for the provers, from the numbered rules of the spec. A statement about an instruction says
its opcode bytes, that `exec` answers a next state, what that state holds, and what is left as it was. `exec` runs the
execute step: the state it is given has PC past the instruction (`40_tick_and_addressing.md` R104, R121). The opcode bytes are
those of `30_encoding.md` R84 and R86; but for the eight that R85 shows, the spec takes them from general knowledge by its
decision D1, so that a statement with such bytes has basis 'derived'. That an instruction makes no access beyond those its
rule lists is the spec's decision D10, and that a 16-bit fetch reads its low byte first its decision D11. -/

open Sys2Proof Sys2Proof.Machine

/-! ## Encoding -/

/-- The eight opcode bytes that the source document itself shows, with the operands of its scenarios
(`30_encoding.md` R85). -/
def Obligations.ShownBytesDecode : Prop :=
  decode [0xA9, 0x42] = .ok (.lda (.imm 0x42), []) ∧
  decode [0x85, 0x10] = .ok (.sta (.zpg 0x10), []) ∧
  decode [0x69, 0x50] = .ok (.adc (.imm 0x50), []) ∧
  decode [0xCA] = .ok (.dex, []) ∧
  decode [0xD0, 0xFD] = .ok (.bne 0xFD, []) ∧
  decode [0x20, 0x00, 0x90] = .ok (.jsr 0x9000, []) ∧
  decode [0x60] = .ok (.rts, []) ∧
  decode [0x6C, 0xFF, 0x10] = .ok (.jmp (.ind 0x10FF), [])

/-- Decoding the bytes of any well-formed instruction, with anything after them, gives the instruction back and what stood
after it (`30_encoding.md` R84 against R86). -/
def Obligations.DecodeOfEncodeIsTheInstruction : Prop :=
  ∀ i : Instr, i.wf = true →
    ∃ bytes, encode i = some bytes ∧ bytes.length = i.length ∧ ∀ rest, decode (bytes ++ rest) = .ok (i, rest)

/-- Whatever decodes is a well-formed instruction, and its encoding is the bytes that were decoded: each opcode byte has
one meaning. -/
def Obligations.EncodeOfDecodeIsTheBytes : Prop :=
  ∀ (bytes rest : List Byte) (i : Instr), decode bytes = .ok (i, rest) →
    i.wf = true ∧ ∃ front, encode i = some front ∧ bytes = front ++ rest

/-- An instruction is 1, 2 or 3 bytes long, and the opcode byte alone determines the length (`30_encoding.md` R80,
R88): with enough bytes after it every opcode byte decodes. -/
def Obligations.OpcodeByteDeterminesLength : Prop :=
  ∀ opcode : Byte, ∃ n : Nat, n = 1 + (tableEntry opcode).mode.operandLength ∧ 1 ≤ n ∧ n ≤ 3 ∧
    ∀ (b1 b2 : Byte) (rest : List Byte), ∃ i : Instr, i.length = n ∧
      decode (opcode :: b1 :: b2 :: rest) = .ok (i, (opcode :: b1 :: b2 :: rest).drop n)

/-! ## The tick -/

/-- When the bytes at the program counter decode to `i`, a tick of the Running machine is `exec i` in the state in which
PC is past the instruction and the fetch stands on the bus record (`40_tick_and_addressing.md` R100 to R104, R121). -/
def Obligations.StepRunsTheDecodedInstruction : Prop :=
  ∀ (s : State) (i : Instr) (rest : List Byte), s.halted = false → decode (bytesAtPc s) = .ok (i, rest) →
    ∃ t, Fetched i s t ∧ step s = exec i t

/-- An instruction word placed by `withFetchWord` is the instruction of the next step (model's own, log entry 7). -/
def Obligations.PlacedWordIsFetched : Prop :=
  ∀ (s : State) (nbits w : Nat) (i : Instr), decodeTableWord nbits w = some i →
    (s.withFetchWord nbits w).halted = false ∧ instrAt (s.withFetchWord nbits w) = i ∧
    ∃ t, Fetched i (s.withFetchWord nbits w) t ∧ step (s.withFetchWord nbits w) = exec i t

/-- Every run of host inputs from every state answers a state: no fault, no refusal (`60_exceptions.md` R300;
`30_encoding.md` R83). It rests on the default policies, log entries 3 and 4, and on the total bus, log entry 11. -/
def Obligations.EveryRunIsSafe : Prop :=
  ∀ (inputs : List HostInput) (s : State), SafeRun inputs s

/-- One tick makes between one and six bus accesses, and at most one write, but two for JSR and three for BRK
(`95_test_vectors.md` section 4, from `20_memory.md` R67, R68). -/
def Obligations.TickMakesOneToSixAccesses : Prop :=
  ∀ s t : State, s.halted = false → step s = .next t →
    ∃ l : List BusAccess, t.bus = l ++ s.bus ∧ 1 ≤ l.length ∧ l.length ≤ 6 ∧
      l.countP BusAccess.isWrite ≤ writesAllowed (instrAt s)

/-! ## Reset and invariants -/

/-- reset() from any state, Running or Jammed: registers and flags 0, Running, PC from the reset vector, memory as it was,
exactly two bus reads (`10_state.md` R37, `70_reset_and_hazards.md` R330, R331). That there are exactly those two accesses is
the spec's decision D23, that every state gives the same its decision D33, that the low byte is read first its D11. -/
def Obligations.ResetInputState : Prop :=
  ∀ s : State, ∃ t, applyInput .reset s = .next t ∧
    t.a = 0x00 ∧ t.x = 0x00 ∧ t.y = 0x00 ∧ t.sp = 0x00 ∧ t.p = 0x00 ∧ t.halted = false ∧
    t.pc = word (s.peek 0xFFFD) (s.peek 0xFFFC) ∧ BytesKept s t ∧
    Accessed [.read 0xFFFC (s.peek 0xFFFC), .read 0xFFFD (s.peek 0xFFFD)] s t

/-- `State.reset` is what reset() leaves of any state whose bus lists nothing and whose record is empty (log entries 1, 5:
the contents of that bus are the model's choice). -/
def Obligations.ResetStateIsResetOfEmptyBus : Prop :=
  ∀ s : State, s.mem = [] → s.bus = [] → applyInput .reset s = .next State.reset

/-- Memory is in canonical form at reset. -/
def Obligations.ResetMemoryIsCanonical : Prop := Inv State.reset

/-- Every step, and every other host input, keeps memory in canonical form. -/
def Obligations.EveryStepKeepsCanonicalMemory : Prop :=
  (∀ s t : State, Inv s → step s = .next t → Inv t) ∧
  ∀ (i : HostInput) (s t : State), Inv s → applyInput i s = .next t → Inv t

/-- Bits 5 and 4 of P are clear at reset, every step keeps the value of each, whatever it is, and no host input sets
one (`10_state.md` R26). -/
def Obligations.UnusedStatusBitsAreNeverSet : Prop :=
  UnusedBitsClear State.reset ∧
  (∀ s t : State, step s = .next t → t.flag .u = s.flag .u ∧ t.flag .b = s.flag .b) ∧
  ∀ (i : HostInput) (s t : State), UnusedBitsClear s → applyInput i s = .next t → UnusedBitsClear t

/-- A step of the Running machine leaves it Jammed exactly when the instruction is a JAM (`10_state.md` R29). -/
def Obligations.OnlyJamJams : Prop :=
  ∀ s t : State, s.halted = false → step s = .next t → t.halted = isJam (instrAt s)

/-- In the Jammed state a tick makes no bus access and changes nothing (`40_tick_and_addressing.md` R101), no host input but
reset() has any effect (`60_exceptions.md` R306), and reset() leaves it (`10_state.md` R29). The irq() and nmi() part is of
the default policy, log entry 4. -/
def Obligations.JammedUntilReset : Prop :=
  (∀ (inputs : List HostInput) (s : State), HostInput.reset ∉ inputs → s.halted = true → runInputs inputs s = .next s) ∧
  ∀ s : State, ∃ t, applyInput .reset s = .next t ∧ t.halted = false

/-! ## Whole-machine rules -/

/-- Every instruction not named in a flag's "written by" columns leaves that flag unchanged (`10_state.md` R25). -/
def Obligations.OnlyNamedInstructionsWriteFlags : Prop :=
  ∀ (f : Flag) (i : Instr) (s t : State), exec i s = .next t → writesFlag f i = false → t.flag f = s.flag f

/-- Every well-formed instruction not named among a register's writers leaves the register unchanged (`10_state.md` R20 to
R22). -/
def Obligations.OnlyNamedInstructionsWriteRegisters : Prop :=
  ∀ (r : Reg) (i : Instr) (s t : State), i.wf = true → exec i s = .next t → writesReg r i = false → t.reg r = s.reg r

/-- The execute step leaves PC where the fetch put it, except for branches, JMP, JSR, RTS, RTI and BRK
(`10_state.md` R23). -/
def Obligations.OnlyControlTransfersWritePc : Prop :=
  ∀ (i : Instr) (s t : State), exec i s = .next t → writesPc i = false → t.pc = s.pc

/-- Memory changes at the bytes an instruction stores to and nowhere else (`20_memory.md` R67, R68): the effective address of
a store or a read-modify-write, the stack bytes of a push. -/
def Obligations.MemoryChangesOnlyWhereStored : Prop :=
  ∀ (i : Instr) (s t : State), exec i s = .next t → BytesKeptBut (bytesWritten i s) s t

/-- D is not an input of any instruction but PHP and BRK, which push it (`10_state.md` R25, `42_arithmetic_logical.md` R168;
U12 of `93_implementation_defined.md`): with D changed, an instruction that does not write D does the same with D changed,
and one that writes D (CLD, SED, PLP, RTI) answers the same state, D included. -/
def Obligations.DecimalFlagChangesNoResult : Prop :=
  (∀ (i : Instr) (s : State) (v : Bool), i ≠ .php → i ≠ .brk → writesFlag .d i = false →
    exec i (s.withFlag .d v) = mapOut (fun t => t.withFlag .d v) (exec i s)) ∧
  ∀ (i : Instr) (s : State) (v : Bool), writesFlag .d i = true → exec i (s.withFlag .d v) = exec i s

/-- No instruction reads bits 5 and 4 of the register P: with either changed, every instruction does the same with it
changed (`10_state.md` R25, R26). -/
def Obligations.UnusedStatusBitsAreNotRead : Prop :=
  ∀ (f : Flag) (i : Instr) (s : State) (v : Bool), f = .u ∨ f = .b →
    exec i (s.withFlag f v) = mapOut (fun t => t.withFlag f v) (exec i s)

/-! ## Bus and stack helpers, the status byte, the adder -/

/-- The two 16-bit fetches that wrap: a zero-page pointer's high byte comes from the zero page (`20_memory.md` R53), an
indirect jump's from the page of the pointer (R54); nothing else is read, and the low byte is read first, which is the
spec's decision D11. -/
def Obligations.SixteenBitFetches : Prop :=
  (∀ hi lo : Byte, (word hi lo).toNat = hi.toNat * 256 + lo.toNat) ∧
  (∀ (z : Byte) (s : State), (read16zp z s).1 = word (s.peek (zext16 (z + 1))) (s.peek (zext16 z)) ∧
    Accessed [.read (zext16 z) (s.peek (zext16 z)), .read (zext16 (z + 1)) (s.peek (zext16 (z + 1)))] s
      (read16zp z s).2) ∧
  (∀ (a : Word) (s : State),
    let h : Word := (a &&& 0xFF00) ||| ((a + 1) &&& 0x00FF)
    (read16bug a s).1 = word (s.peek h) (s.peek a) ∧
    Accessed [.read a (s.peek a), .read h (s.peek h)] s (read16bug a s).2)

/-- Push and pull, of a byte and of a 16-bit value: at `0x0100 + S`, S wrapping modulo 256, high byte pushed first and pulled
last (`20_memory.md` R59). Nothing else changes: no other register, PC among them, no flag, no other byte. -/
def Obligations.StackPrimitives : Prop :=
  (∀ sp : Byte, (stackAddr sp).toNat = 0x0100 + sp.toNat) ∧
  (∀ (v : Byte) (s : State),
    (push8 v s).peek (stackAddr s.sp) = v ∧ (push8 v s).sp = s.sp - 1 ∧
    Keeps [.sp] [] s (push8 v s) ∧ (push8 v s).pc = s.pc ∧ BytesKeptBut [stackAddr s.sp] s (push8 v s) ∧
    Accessed [.write (stackAddr s.sp) v] s (push8 v s)) ∧
  (∀ s : State,
    (pull8 s).1 = s.peek (stackAddr (s.sp + 1)) ∧ (pull8 s).2.sp = s.sp + 1 ∧
    Keeps [.sp] [] s (pull8 s).2 ∧ (pull8 s).2.pc = s.pc ∧ BytesKept s (pull8 s).2 ∧
    Accessed [.read (stackAddr (s.sp + 1)) (s.peek (stackAddr (s.sp + 1)))] s (pull8 s).2) ∧
  (∀ (w : Word) (s : State),
    (pushWord w s).peek (stackAddr s.sp) = hiByte w ∧ (pushWord w s).peek (stackAddr (s.sp - 1)) = loByte w ∧
    (pushWord w s).sp = s.sp - 2 ∧ Keeps [.sp] [] s (pushWord w s) ∧ (pushWord w s).pc = s.pc ∧
    BytesKeptBut [stackAddr s.sp, stackAddr (s.sp - 1)] s (pushWord w s) ∧
    Accessed [.write (stackAddr s.sp) (hiByte w), .write (stackAddr (s.sp - 1)) (loByte w)] s (pushWord w s)) ∧
  (∀ s : State,
    (pullWord s).1 = word (s.peek (stackAddr (s.sp + 2))) (s.peek (stackAddr (s.sp + 1))) ∧
    (pullWord s).2.sp = s.sp + 2 ∧ Keeps [.sp] [] s (pullWord s).2 ∧ (pullWord s).2.pc = s.pc ∧
    BytesKept s (pullWord s).2 ∧
    Accessed [.read (stackAddr (s.sp + 1)) (s.peek (stackAddr (s.sp + 1))),
      .read (stackAddr (s.sp + 2)) (s.peek (stackAddr (s.sp + 2)))] s (pullWord s).2)

/-- Read16 (`20_memory.md` R52; low byte first is the spec's decision D11), and the effective address of every mode as a
number: zero-page sums wrap modulo 256, 16-bit sums modulo 65536, a zero-page pointer's high byte comes from the zero page,
JMP's pointer stays in its page (`40_tick_and_addressing.md` R107 to R117). -/
def Obligations.EffectiveAddresses : Prop :=
  (∀ (a : Word) (s : State), (read16 a s).1 = word (s.peek (a + 1)) (s.peek a) ∧
    Accessed [.read a (s.peek a), .read (a + 1) (s.peek (a + 1))] s (read16 a s).2) ∧
  ∀ (zz : Byte) (w : Word) (s : State),
    effAddr (.imm zz) s = s.pc - 1 ∧ effAddr (.rel zz) s = s.pc - 1 ∧
    (effAddr (.zpg zz) s).toNat = zz.toNat ∧
    (effAddr (.zpgx zz) s).toNat = (zz.toNat + s.x.toNat) % 256 ∧
    (effAddr (.zpgy zz) s).toNat = (zz.toNat + s.y.toNat) % 256 ∧
    effAddr (.abs w) s = w ∧
    (effAddr (.absx w) s).toNat = (w.toNat + s.x.toNat) % 65536 ∧
    (effAddr (.absy w) s).toNat = (w.toNat + s.y.toNat) % 65536 ∧
    (effAddr (.ind w) s).toNat =
      (s.mem.read w.toNat).toNat + 256 * (s.mem.read (w.toNat / 256 * 256 + (w.toNat + 1) % 256)).toNat ∧
    (effAddr (.indx zz) s).toNat =
      (s.mem.read ((zz.toNat + s.x.toNat) % 256)).toNat +
        256 * (s.mem.read ((zz.toNat + s.x.toNat + 1) % 256)).toNat ∧
    (effAddr (.indy zz) s).toNat =
      ((s.mem.read zz.toNat).toNat + 256 * (s.mem.read ((zz.toNat + 1) % 256)).toNat + s.y.toNat) % 65536

/-- The place of each flag in the status byte (`10_state.md` R24), the setter of one flag (R34), and the three byte conversions
flag by flag: PushForm (R31), PullForm (R32), and the byte an interrupt entry pushes (`60_exceptions.md` R303, the spec's
decision D14). -/
def Obligations.StatusByteForms : Prop :=
  (∀ p : Byte,
    getFlag p .n = p.getLsbD 7 ∧ getFlag p .v = p.getLsbD 6 ∧ getFlag p .u = p.getLsbD 5 ∧ getFlag p .b = p.getLsbD 4 ∧
    getFlag p .d = p.getLsbD 3 ∧ getFlag p .i = p.getLsbD 2 ∧ getFlag p .z = p.getLsbD 1 ∧ getFlag p .c = p.getLsbD 0) ∧
  (∀ (p : Byte) (f g : Flag) (v : Bool), getFlag (putFlag p f v) g = if g = f then v else getFlag p g) ∧
  (∀ p : Byte,
    interruptForm p = (p ||| 0x20) &&& 0xEF ∧ getFlag (interruptForm p) .u = true ∧
    getFlag (interruptForm p) .b = false ∧
    ∀ f : Flag, f ≠ .u → f ≠ .b → getFlag (interruptForm p) f = getFlag p f) ∧
  ∀ p b : Byte,
    pushForm p = p ||| 0x30 ∧ getFlag (pushForm p) .u = true ∧ getFlag (pushForm p) .b = true ∧
    (∀ f : Flag, f ≠ .u → f ≠ .b → getFlag (pushForm p) f = getFlag p f) ∧
    pullForm p b = (b &&& 0xCF) ||| (p &&& 0x30) ∧ getFlag (pullForm p b) .u = getFlag p .u ∧
    getFlag (pullForm p b) .b = getFlag p .b ∧
    (∀ f : Flag, f ≠ .u → f ≠ .b → getFlag (pullForm p b) f = getFlag b f)

/-- The adder: the result and the carry are those of the exact sum, and V is set exactly when the exact signed sum lies
outside -128..127; which is the formula of the rule (`42_arithmetic_logical.md` R168). -/
def Obligations.AdderIsExact : Prop :=
  ∀ (a m : Byte) (c : Bool),
    let sum := a.toNat + m.toNat + c.toNat
    let signed : Int := a.toInt + m.toInt + (c.toNat : Int)
    let r := addWithCarry a m c
    r.result.toNat = sum % 256 ∧ r.carry = decide (0xFF < sum) ∧
    (r.overflow = true ↔ signed < -128 ∨ 127 < signed) ∧
    r.overflow = decide ((a ^^^ r.result) &&& (m ^^^ r.result) &&& 0x80 ≠ 0)

/-- Adding the complement subtracts with borrow: the result is `A - M - (1 - C)` modulo 256, C is set exactly when no
borrow occurred, V exactly when the signed difference lies outside -128..127 (`42_arithmetic_logical.md` R171). -/
def Obligations.SubtractionIsExact : Prop :=
  ∀ (a m : Byte) (c : Bool),
    let borrow : Int := 1 - (c.toNat : Int)
    let signed : Int := a.toInt - m.toInt - borrow
    let r := addWithCarry a (m ^^^ 0xFF) c
    (r.result.toNat : Int) = ((a.toNat : Int) - (m.toNat : Int) - borrow) % 256 ∧
    (r.carry = true ↔ (m.toNat : Int) + borrow ≤ (a.toNat : Int)) ∧
    (r.overflow = true ↔ signed < -128 ∨ 127 < signed)

/-! ## Load, store, transfer, stack -/

/-- LDA, LDX, LDY (`41_load_store_transfer_stack.md` R140, R141, R142). -/
def Obligations.LoadsLoadARegister : Prop :=
  HasRows .lda [(.imm, 0xA9), (.zpg, 0xA5), (.zpgx, 0xB5), (.abs, 0xAD), (.absx, 0xBD), (.absy, 0xB9), (.indx, 0xA1),
    (.indy, 0xB1)] ∧
  HasRows .ldx [(.imm, 0xA2), (.zpg, 0xA6), (.zpgy, 0xB6), (.abs, 0xAE), (.absy, 0xBE)] ∧
  HasRows .ldy [(.imm, 0xA0), (.zpg, 0xA4), (.zpgx, 0xB4), (.abs, 0xAC), (.absx, 0xBC)] ∧
  ∀ (o : Operand) (s : State),
    Completes (.lda o) s (fun t => t.a = operandValue o s ∧ NZof (operandValue o s) t ∧ ReadsOperand o [.a] [.n, .z] s t) ∧
    Completes (.ldx o) s (fun t => t.x = operandValue o s ∧ NZof (operandValue o s) t ∧ ReadsOperand o [.x] [.n, .z] s t) ∧
    Completes (.ldy o) s (fun t => t.y = operandValue o s ∧ NZof (operandValue o s) t ∧ ReadsOperand o [.y] [.n, .z] s t)

/-- STA, STX, STY (`41_load_store_transfer_stack.md` R143, R144, R145): one bus write at the effective address, no read of
it, no flag. -/
def Obligations.StoresStoreARegister : Prop :=
  HasRows .sta [(.zpg, 0x85), (.zpgx, 0x95), (.abs, 0x8D), (.absx, 0x9D), (.absy, 0x99), (.indx, 0x81), (.indy, 0x91)] ∧
  HasRows .stx [(.zpg, 0x86), (.zpgy, 0x96), (.abs, 0x8E)] ∧
  HasRows .sty [(.zpg, 0x84), (.zpgx, 0x94), (.abs, 0x8C)] ∧
  ∀ (o : Operand) (s : State),
    ((Instr.sta o).wf = true → Completes (.sta o) s (fun t => StoredTo o s.a s t ∧ Keeps [] [] s t ∧ t.pc = s.pc ∧
      Accessed (pointerReads o s ++ operandWrites o s.a s) s t)) ∧
    ((Instr.stx o).wf = true → Completes (.stx o) s (fun t => StoredTo o s.x s t ∧ Keeps [] [] s t ∧ t.pc = s.pc ∧
      Accessed (pointerReads o s ++ operandWrites o s.x s) s t)) ∧
    ((Instr.sty o).wf = true → Completes (.sty o) s (fun t => StoredTo o s.y s t ∧ Keeps [] [] s t ∧ t.pc = s.pc ∧
      Accessed (pointerReads o s ++ operandWrites o s.y s) s t))

/-- TAX, TAY, TSX, TXA, TYA, TXS (`41_load_store_transfer_stack.md` R146 to R151): all set N and Z except TXS. -/
def Obligations.TransfersCopyARegister : Prop :=
  HasBytes .tax [0xAA] ∧ HasBytes .tay [0xA8] ∧ HasBytes .tsx [0xBA] ∧ HasBytes .txa [0x8A] ∧ HasBytes .tya [0x98] ∧
  HasBytes .txs [0x9A] ∧
  ∀ s : State,
    Completes .tax s (fun t => t.x = s.a ∧ NZof s.a t ∧ RegistersOnly [.x] [.n, .z] s t) ∧
    Completes .tay s (fun t => t.y = s.a ∧ NZof s.a t ∧ RegistersOnly [.y] [.n, .z] s t) ∧
    Completes .tsx s (fun t => t.x = s.sp ∧ NZof s.sp t ∧ RegistersOnly [.x] [.n, .z] s t) ∧
    Completes .txa s (fun t => t.a = s.x ∧ NZof s.x t ∧ RegistersOnly [.a] [.n, .z] s t) ∧
    Completes .tya s (fun t => t.a = s.y ∧ NZof s.y t ∧ RegistersOnly [.a] [.n, .z] s t) ∧
    Completes .txs s (fun t => t.sp = s.x ∧ RegistersOnly [.sp] [] s t)

/-- PHA and PHP (`41_load_store_transfer_stack.md` R152, R153): one byte at `0x0100 + S`, S one less, no flag. -/
def Obligations.PushesPushAByte : Prop :=
  HasBytes .pha [0x48] ∧ HasBytes .php [0x08] ∧
  ∀ s : State,
    Completes .pha s (fun t => t.peek (stackAddr s.sp) = s.a ∧ t.sp = s.sp - 1 ∧ Keeps [.sp] [] s t ∧
      BytesKeptBut [stackAddr s.sp] s t ∧ t.pc = s.pc ∧ Accessed [.write (stackAddr s.sp) s.a] s t) ∧
    Completes .php s (fun t => t.peek (stackAddr s.sp) = s.p ||| 0x30 ∧ t.sp = s.sp - 1 ∧ Keeps [.sp] [] s t ∧
      BytesKeptBut [stackAddr s.sp] s t ∧ t.pc = s.pc ∧ Accessed [.write (stackAddr s.sp) (s.p ||| 0x30)] s t)

/-- PLA and PLP (`41_load_store_transfer_stack.md` R154, R155): S one more, then the byte at `0x0100 + S`; PLP keeps
bits 5 and 4. -/
def Obligations.PullsPullAByte : Prop :=
  HasBytes .pla [0x68] ∧ HasBytes .plp [0x28] ∧
  ∀ s : State,
    let at1 := stackAddr (s.sp + 1)
    Completes .pla s (fun t => t.a = s.peek at1 ∧ NZof (s.peek at1) t ∧ t.sp = s.sp + 1 ∧ Keeps [.a, .sp] [.n, .z] s t ∧
      BytesKept s t ∧ t.pc = s.pc ∧ Accessed [.read at1 (s.peek at1)] s t) ∧
    Completes .plp s (fun t => t.p = (s.peek at1 &&& 0xCF) ||| (s.p &&& 0x30) ∧ t.sp = s.sp + 1 ∧
      Keeps [.sp] [.n, .v, .d, .i, .z, .c] s t ∧ BytesKept s t ∧ t.pc = s.pc ∧ Accessed [.read at1 (s.peek at1)] s t)

/-! ## Arithmetic, compare, logical -/

/-- ADC (`42_arithmetic_logical.md` R170, R168). -/
def Obligations.AdcAddsWithCarry : Prop :=
  HasRows .adc [(.imm, 0x69), (.zpg, 0x65), (.zpgx, 0x75), (.abs, 0x6D), (.absx, 0x7D), (.absy, 0x79), (.indx, 0x61),
    (.indy, 0x71)] ∧
  ∀ (o : Operand) (s : State), Completes (.adc o) s (fun t =>
    let r := addWithCarry s.a (operandValue o s) (s.flag .c)
    t.a = r.result ∧ t.flag .c = r.carry ∧ t.flag .v = r.overflow ∧ NZof r.result t ∧
    ReadsOperand o [.a] [.n, .v, .z, .c] s t)

/-- SBC (`42_arithmetic_logical.md` R171): the adder on the complement of the operand. -/
def Obligations.SbcSubtractsWithBorrow : Prop :=
  HasRows .sbc [(.imm, 0xE9), (.zpg, 0xE5), (.zpgx, 0xF5), (.abs, 0xED), (.absx, 0xFD), (.absy, 0xF9), (.indx, 0xE1),
    (.indy, 0xF1)] ∧
  ∀ (o : Operand) (s : State), Completes (.sbc o) s (fun t =>
    let r := addWithCarry s.a (operandValue o s ^^^ 0xFF) (s.flag .c)
    t.a = r.result ∧ t.flag .c = r.carry ∧ t.flag .v = r.overflow ∧ NZof r.result t ∧
    (t.a.toNat : Int) = ((s.a.toNat : Int) - (operandValue o s).toNat - (1 - ((s.flag .c).toNat : Int))) % 256 ∧
    ReadsOperand o [.a] [.n, .v, .z, .c] s t)

/-- CMP, CPX, CPY (`42_arithmetic_logical.md` R169, R172 to R174): C is register ≥ M unsigned, Z equality, N bit 7 of the
difference; the register and V unchanged. -/
def Obligations.ComparesSetNZC : Prop :=
  HasRows .cmp [(.imm, 0xC9), (.zpg, 0xC5), (.zpgx, 0xD5), (.abs, 0xCD), (.absx, 0xDD), (.absy, 0xD9), (.indx, 0xC1),
    (.indy, 0xD1)] ∧
  HasRows .cpx [(.imm, 0xE0), (.zpg, 0xE4), (.abs, 0xEC)] ∧
  HasRows .cpy [(.imm, 0xC0), (.zpg, 0xC4), (.abs, 0xCC)] ∧
  ∀ (o : Operand) (s : State),
    let m := operandValue o s
    Completes (.cmp o) s (fun t => t.flag .c = decide (m.toNat ≤ s.a.toNat) ∧ t.flag .z = decide (s.a = m) ∧
      t.flag .n = (s.a - m).getLsbD 7 ∧ ReadsOperand o [] [.n, .z, .c] s t) ∧
    Completes (.cpx o) s (fun t => t.flag .c = decide (m.toNat ≤ s.x.toNat) ∧ t.flag .z = decide (s.x = m) ∧
      t.flag .n = (s.x - m).getLsbD 7 ∧ ReadsOperand o [] [.n, .z, .c] s t) ∧
    Completes (.cpy o) s (fun t => t.flag .c = decide (m.toNat ≤ s.y.toNat) ∧ t.flag .z = decide (s.y = m) ∧
      t.flag .n = (s.y - m).getLsbD 7 ∧ ReadsOperand o [] [.n, .z, .c] s t)

/-- AND, ORA, EOR (`42_arithmetic_logical.md` R175 to R177). -/
def Obligations.LogicalOpsCombineWithA : Prop :=
  HasRows .and [(.imm, 0x29), (.zpg, 0x25), (.zpgx, 0x35), (.abs, 0x2D), (.absx, 0x3D), (.absy, 0x39), (.indx, 0x21),
    (.indy, 0x31)] ∧
  HasRows .ora [(.imm, 0x09), (.zpg, 0x05), (.zpgx, 0x15), (.abs, 0x0D), (.absx, 0x1D), (.absy, 0x19), (.indx, 0x01),
    (.indy, 0x11)] ∧
  HasRows .eor [(.imm, 0x49), (.zpg, 0x45), (.zpgx, 0x55), (.abs, 0x4D), (.absx, 0x5D), (.absy, 0x59), (.indx, 0x41),
    (.indy, 0x51)] ∧
  ∀ (o : Operand) (s : State),
    let m := operandValue o s
    Completes (.and o) s (fun t => t.a = s.a &&& m ∧ NZof (s.a &&& m) t ∧ ReadsOperand o [.a] [.n, .z] s t) ∧
    Completes (.ora o) s (fun t => t.a = s.a ||| m ∧ NZof (s.a ||| m) t ∧ ReadsOperand o [.a] [.n, .z] s t) ∧
    Completes (.eor o) s (fun t => t.a = s.a ^^^ m ∧ NZof (s.a ^^^ m) t ∧ ReadsOperand o [.a] [.n, .z] s t)

/-- BIT (`42_arithmetic_logical.md` R178): Z from `A & M`, N and V from M alone. -/
def Obligations.BitTestsWithoutChangingA : Prop :=
  HasRows .bit [(.zpg, 0x24), (.abs, 0x2C)] ∧
  ∀ (o : Operand) (s : State),
    let m := operandValue o s
    Completes (.bit o) s (fun t => t.flag .z = decide (s.a &&& m = 0) ∧ t.flag .n = m.getLsbD 7 ∧ t.flag .v = m.getLsbD 6 ∧
      ReadsOperand o [] [.n, .v, .z] s t)

/-! ## Shift, rotate, increment, decrement -/

/-- ASL, LSR, ROL, ROR on A and on memory (`43_shift_incdec.md` R186, R190 to R193). -/
def Obligations.ShiftsAndRotatesMoveOneBit : Prop :=
  HasRows .asl [(.acc, 0x0A), (.zpg, 0x06), (.zpgx, 0x16), (.abs, 0x0E), (.absx, 0x1E)] ∧
  HasRows .lsr [(.acc, 0x4A), (.zpg, 0x46), (.zpgx, 0x56), (.abs, 0x4E), (.absx, 0x5E)] ∧
  HasRows .rol [(.acc, 0x2A), (.zpg, 0x26), (.zpgx, 0x36), (.abs, 0x2E), (.absx, 0x3E)] ∧
  HasRows .ror [(.acc, 0x6A), (.zpg, 0x66), (.zpgx, 0x76), (.abs, 0x6E), (.absx, 0x7E)] ∧
  ∀ (o : Operand) (s : State),
    let m := operandValue o s
    let c0 : Byte := if s.flag .c then 1 else 0
    let left := m <<< 1
    let right := m >>> 1
    let leftIn := (m <<< 1) ||| c0
    let rightIn := (m >>> 1) ||| (c0 <<< 7)
    Completes (.asl o) s (fun t => t.flag .c = m.getLsbD 7 ∧ NZof left t ∧
      ModifiesOperand o left (operandReg o) [.n, .z, .c] s t) ∧
    Completes (.lsr o) s (fun t => t.flag .c = m.getLsbD 0 ∧ t.flag .n = false ∧ NZof right t ∧
      ModifiesOperand o right (operandReg o) [.n, .z, .c] s t) ∧
    Completes (.rol o) s (fun t => t.flag .c = m.getLsbD 7 ∧ NZof leftIn t ∧
      ModifiesOperand o leftIn (operandReg o) [.n, .z, .c] s t) ∧
    Completes (.ror o) s (fun t => t.flag .c = m.getLsbD 0 ∧ t.flag .n = s.flag .c ∧ NZof rightIn t ∧
      ModifiesOperand o rightIn (operandReg o) [.n, .z, .c] s t)

/-- INC and DEC (`43_shift_incdec.md` R194, R195). -/
def Obligations.IncDecCountInMemory : Prop :=
  HasRows .inc [(.zpg, 0xE6), (.zpgx, 0xF6), (.abs, 0xEE), (.absx, 0xFE)] ∧
  HasRows .dec [(.zpg, 0xC6), (.zpgx, 0xD6), (.abs, 0xCE), (.absx, 0xDE)] ∧
  ∀ (o : Operand) (s : State),
    let m := operandValue o s
    ((Instr.inc o).wf = true →
      Completes (.inc o) s (fun t => NZof (m + 1) t ∧ ModifiesOperand o (m + 1) [] [.n, .z] s t)) ∧
    ((Instr.dec o).wf = true →
      Completes (.dec o) s (fun t => NZof (m - 1) t ∧ ModifiesOperand o (m - 1) [] [.n, .z] s t))

/-- INX, INY, DEX, DEY (`43_shift_incdec.md` R196 to R199). -/
def Obligations.IndexRegistersCount : Prop :=
  HasBytes .inx [0xE8] ∧ HasBytes .iny [0xC8] ∧ HasBytes .dex [0xCA] ∧ HasBytes .dey [0x88] ∧
  ∀ s : State,
    Completes .inx s (fun t => t.x = s.x + 1 ∧ NZof (s.x + 1) t ∧ RegistersOnly [.x] [.n, .z] s t) ∧
    Completes .iny s (fun t => t.y = s.y + 1 ∧ NZof (s.y + 1) t ∧ RegistersOnly [.y] [.n, .z] s t) ∧
    Completes .dex s (fun t => t.x = s.x - 1 ∧ NZof (s.x - 1) t ∧ RegistersOnly [.x] [.n, .z] s t) ∧
    Completes .dey s (fun t => t.y = s.y - 1 ∧ NZof (s.y - 1) t ∧ RegistersOnly [.y] [.n, .z] s t)

/-- DEC undoes INC, and ROR undoes ROL over the value and the carry, on memory and on A (`95_test_vectors.md` U-5). -/
def Obligations.CountAndRotateRoundTrips : Prop :=
  ∀ (o : Operand) (s t : State),
    ((Instr.inc o).wf = true → exec (.inc o) s = .next t →
      Completes (.dec o) t (fun u => BytesKept s u ∧ NZof (operandValue o s) u ∧ Keeps [] [.n, .z] s u ∧ u.pc = s.pc)) ∧
    ((Instr.rol o).wf = true → exec (.rol o) s = .next t →
      Completes (.ror o) t (fun u => BytesKept s u ∧ Keeps [] [.n, .z] s u ∧ u.pc = s.pc))

/-! ## Branches, jumps, call, returns -/

/-- The eight branches (`44_branch_jump.md` R210 to R218): the displacement is read in every case; when the condition
holds PC is the address after the branch plus the signed displacement, else the address after the branch. -/
def Obligations.BranchesAddTheDisplacement : Prop :=
  (∀ rr : Byte, HasBytes (.bpl rr) [0x10, rr] ∧ HasBytes (.bmi rr) [0x30, rr] ∧ HasBytes (.bvc rr) [0x50, rr] ∧
    HasBytes (.bvs rr) [0x70, rr] ∧ HasBytes (.bcc rr) [0x90, rr] ∧ HasBytes (.bcs rr) [0xB0, rr] ∧
    HasBytes (.bne rr) [0xD0, rr] ∧ HasBytes (.beq rr) [0xF0, rr]) ∧
  ∀ (rr : Byte) (s : State),
    let goes (cond : Bool) (t : State) : Prop :=
      (t.pc.toNat : Int) = (if cond then ((s.pc.toNat : Int) + rr.toInt) % 65536 else (s.pc.toNat : Int)) ∧
      Keeps [] [] s t ∧ BytesKept s t ∧ Accessed [.read (s.pc - 1) rr] s t
    Completes (.bpl rr) s (goes (!s.flag .n)) ∧ Completes (.bmi rr) s (goes (s.flag .n)) ∧
    Completes (.bvc rr) s (goes (!s.flag .v)) ∧ Completes (.bvs rr) s (goes (s.flag .v)) ∧
    Completes (.bcc rr) s (goes (!s.flag .c)) ∧ Completes (.bcs rr) s (goes (s.flag .c)) ∧
    Completes (.bne rr) s (goes (!s.flag .z)) ∧ Completes (.beq rr) s (goes (s.flag .z))

/-- JMP (`44_branch_jump.md` R219): PC is the operand, or what the pointer holds with the page-wrap bug. -/
def Obligations.JmpJumps : Prop :=
  HasRows .jmp [(.abs, 0x4C), (.ind, 0x6C)] ∧
  ∀ (w : Word) (s : State),
    Completes (.jmp (.abs w)) s (fun t => t.pc = w ∧ Keeps [] [] s t ∧ BytesKept s t ∧ Accessed [] s t) ∧
    Completes (.jmp (.ind w)) s (fun t =>
      let h : Word := (w &&& 0xFF00) ||| ((w + 1) &&& 0x00FF)
      t.pc = word (s.peek h) (s.peek w) ∧ Keeps [] [] s t ∧ BytesKept s t ∧
      Accessed [.read w (s.peek w), .read h (s.peek h)] s t)

/-- JSR (`44_branch_jump.md` R220): PC - 1 is pushed, high byte first. -/
def Obligations.JsrPushesItsLastByte : Prop :=
  (∀ w : Word, HasBytes (.jsr w) [0x20, loByte w, hiByte w]) ∧
  ∀ (w : Word) (s : State), Completes (.jsr w) s (fun t =>
    t.pc = w ∧ t.sp = s.sp - 2 ∧ t.peek (stackAddr s.sp) = hiByte (s.pc - 1) ∧
    t.peek (stackAddr (s.sp - 1)) = loByte (s.pc - 1) ∧ Keeps [.sp] [] s t ∧
    BytesKeptBut [stackAddr s.sp, stackAddr (s.sp - 1)] s t ∧
    Accessed [.write (stackAddr s.sp) (hiByte (s.pc - 1)), .write (stackAddr (s.sp - 1)) (loByte (s.pc - 1))] s t)

/-- RTS (`44_branch_jump.md` R221): low byte, high byte, plus one modulo 65536. That the one is added to the whole 16-bit
address is the spec's decision D28 (conflict C9 of `90_conflicts.md`). -/
def Obligations.RtsReturnsPastTheCall : Prop :=
  HasBytes .rts [0x60] ∧
  ∀ s : State,
    let lo := s.peek (stackAddr (s.sp + 1))
    let hi := s.peek (stackAddr (s.sp + 2))
    Completes .rts s (fun t => t.pc.toNat = (hi.toNat * 256 + lo.toNat + 1) % 65536 ∧ t.sp = s.sp + 2 ∧
      Keeps [.sp] [] s t ∧ BytesKept s t ∧
      Accessed [.read (stackAddr (s.sp + 1)) lo, .read (stackAddr (s.sp + 2)) hi] s t)

/-- JSR then RTS: PC is the instruction after the JSR and S its value before it, for every S, wherever the subroutine left
PC (`95_test_vectors.md` U-8). -/
def Obligations.RtsUndoesJsr : Prop :=
  ∀ (w pc' : Word) (s t : State), exec (.jsr w) s = .next t →
    Completes .rts (t.setPc pc') (fun u => u.pc = s.pc ∧ u.sp = s.sp ∧ Keeps [] [] s u)

/-- RTI (`44_branch_jump.md` R222): status with bits 5 and 4 kept, then PC low and high, with no adjustment; S three
more. -/
def Obligations.RtiRestoresStatusAndPc : Prop :=
  HasBytes .rti [0x40] ∧
  ∀ s : State,
    let b := s.peek (stackAddr (s.sp + 1))
    let lo := s.peek (stackAddr (s.sp + 2))
    let hi := s.peek (stackAddr (s.sp + 3))
    Completes .rti s (fun t => t.p = (b &&& 0xCF) ||| (s.p &&& 0x30) ∧ t.pc = word hi lo ∧ t.sp = s.sp + 3 ∧
      Keeps [.sp] [.n, .v, .d, .i, .z, .c] s t ∧ BytesKept s t ∧
      Accessed [.read (stackAddr (s.sp + 1)) b, .read (stackAddr (s.sp + 2)) lo, .read (stackAddr (s.sp + 3)) hi] s t)

/-! ## Flag operations, BRK, NOP, JAM -/

/-- CLC, SEC, CLI, SEI, CLD, SED, CLV (`45_flag_system.md` R230 to R236). -/
def Obligations.FlagOpsSetOneFlag : Prop :=
  HasBytes .clc [0x18] ∧ HasBytes .sec [0x38] ∧ HasBytes .cli [0x58] ∧ HasBytes .sei [0x78] ∧ HasBytes .cld [0xD8] ∧
  HasBytes .sed [0xF8] ∧ HasBytes .clv [0xB8] ∧
  ∀ s : State,
    Completes .clc s (fun t => t.flag .c = false ∧ RegistersOnly [] [.c] s t) ∧
    Completes .sec s (fun t => t.flag .c = true ∧ RegistersOnly [] [.c] s t) ∧
    Completes .cli s (fun t => t.flag .i = false ∧ RegistersOnly [] [.i] s t) ∧
    Completes .sei s (fun t => t.flag .i = true ∧ RegistersOnly [] [.i] s t) ∧
    Completes .cld s (fun t => t.flag .d = false ∧ RegistersOnly [] [.d] s t) ∧
    Completes .sed s (fun t => t.flag .d = true ∧ RegistersOnly [] [.d] s t) ∧
    Completes .clv s (fun t => t.flag .v = false ∧ RegistersOnly [] [.v] s t)

/-- BRK (`45_flag_system.md` R237): PC + 1 pushed high byte first, then the status byte with bits 5 and 4 set; I set; PC from
0xFFFE and 0xFFFF, read after the pushes. -/
def Obligations.BrkTakesTheTrap : Prop :=
  HasBytes .brk [0x00] ∧
  ∀ s : State, Completes .brk s (fun t =>
    let ret := s.pc + 1
    t.peek (stackAddr s.sp) = hiByte ret ∧ t.peek (stackAddr (s.sp - 1)) = loByte ret ∧
    t.peek (stackAddr (s.sp - 2)) = s.p ||| 0x30 ∧ t.sp = s.sp - 3 ∧ t.flag .i = true ∧
    t.pc = word (t.peek 0xFFFF) (t.peek 0xFFFE) ∧ Keeps [.sp] [.i] s t ∧
    BytesKeptBut [stackAddr s.sp, stackAddr (s.sp - 1), stackAddr (s.sp - 2)] s t ∧
    Accessed [.write (stackAddr s.sp) (hiByte ret), .write (stackAddr (s.sp - 1)) (loByte ret),
      .write (stackAddr (s.sp - 2)) (s.p ||| 0x30), .read 0xFFFE (t.peek 0xFFFE), .read 0xFFFF (t.peek 0xFFFF)] s t)

/-- NOP changes nothing, JAM sets the Jammed condition and nothing else (`45_flag_system.md` R238, R239). -/
def Obligations.NopAndJam : Prop :=
  HasBytes .nop [0xEA] ∧
  (∀ k : Fin 12, HasBytes (.jam k)
    [([0x02, 0x12, 0x22, 0x32, 0x42, 0x52, 0x62, 0x72, 0x92, 0xB2, 0xD2, 0xF2] : List Byte).getD k.val 0]) ∧
  ∀ s : State, Completes .nop s (fun t => t = s) ∧
    ∀ k : Fin 12, Completes (.jam k) s (fun t => t = { s with halted := true })

/-! ## Undocumented opcodes -/

/-- The 27 undocumented NOPs (`46_undocumented.md` R250): the operand is resolved and not accessed. -/
def Obligations.UndocumentedNopsDoNothing : Prop :=
  (∀ (k : Fin 6) (o : Operand) (b : Byte), encode (.nopu k o) = some (b :: o.bytes) ↔
    (o.mode, k.val, b) ∈ ([(.imp, 0, 0x1A), (.imp, 1, 0x3A), (.imp, 2, 0x5A), (.imp, 3, 0x7A), (.imp, 4, 0xDA),
      (.imp, 5, 0xFA), (.imm, 0, 0x80), (.imm, 1, 0x82), (.imm, 2, 0x89), (.imm, 3, 0xC2), (.imm, 4, 0xE2),
      (.zpg, 0, 0x04), (.zpg, 1, 0x44), (.zpg, 2, 0x64), (.zpgx, 0, 0x14), (.zpgx, 1, 0x34), (.zpgx, 2, 0x54),
      (.zpgx, 3, 0x74), (.zpgx, 4, 0xD4), (.zpgx, 5, 0xF4), (.abs, 0, 0x0C), (.absx, 0, 0x1C), (.absx, 1, 0x3C),
      (.absx, 2, 0x5C), (.absx, 3, 0x7C), (.absx, 4, 0xDC), (.absx, 5, 0xFC)] : List (Mode × Nat × Byte))) ∧
  ∀ (k : Fin 6) (o : Operand) (s : State), Completes (.nopu k o) s (IgnoresOperand o s)

/-- LAX and SAX (`46_undocumented.md` R251, R252). -/
def Obligations.LaxLoadsAAndXAndSaxStoresThem : Prop :=
  HasRows .lax [(.zpg, 0xA7), (.zpgy, 0xB7), (.abs, 0xAF), (.absy, 0xBF), (.indx, 0xA3), (.indy, 0xB3)] ∧
  HasRows .sax [(.zpg, 0x87), (.zpgy, 0x97), (.abs, 0x8F), (.indx, 0x83)] ∧
  ∀ (o : Operand) (s : State),
    Completes (.lax o) s (fun t => t.a = operandValue o s ∧ t.x = operandValue o s ∧ NZof (operandValue o s) t ∧
      ReadsOperand o [.a, .x] [.n, .z] s t) ∧
    ((Instr.sax o).wf = true → Completes (.sax o) s (fun t => StoredTo o (s.a &&& s.x) s t ∧ Keeps [] [] s t ∧
      t.pc = s.pc ∧ Accessed (pointerReads o s ++ operandWrites o (s.a &&& s.x) s) s t))

/-- DCP and ISC (`46_undocumented.md` R253, R254, R272): one read, one write, then the second operation on the byte just
written. -/
def Obligations.DcpAndIscCountThenCombine : Prop :=
  HasRows .dcp [(.zpg, 0xC7), (.zpgx, 0xD7), (.abs, 0xCF), (.absx, 0xDF), (.absy, 0xDB), (.indx, 0xC3), (.indy, 0xD3)] ∧
  HasRows .isc [(.zpg, 0xE7), (.zpgx, 0xF7), (.abs, 0xEF), (.absx, 0xFF), (.absy, 0xFB), (.indx, 0xE3), (.indy, 0xF3)] ∧
  ∀ (o : Operand) (s : State),
    ((Instr.dcp o).wf = true → Completes (.dcp o) s (fun t =>
      let r := operandValue o s - 1
      t.flag .c = decide (r.toNat ≤ s.a.toNat) ∧ t.flag .z = decide (s.a = r) ∧ t.flag .n = (s.a - r).getLsbD 7 ∧
      ModifiesOperand o r [] [.n, .z, .c] s t)) ∧
    ((Instr.isc o).wf = true → Completes (.isc o) s (fun t =>
      let r := operandValue o s + 1
      let d := addWithCarry s.a (r ^^^ 0xFF) (s.flag .c)
      t.a = d.result ∧ t.flag .c = d.carry ∧ t.flag .v = d.overflow ∧ NZof d.result t ∧
      ModifiesOperand o r [.a] [.n, .v, .z, .c] s t))

/-- SLO, RLA, SRE, RRA (`46_undocumented.md` R255 to R258, R272): shift or rotate memory, then combine the byte just written
with A; RRA adds the bit its rotate moved out. -/
def Obligations.ShiftCompositesShiftThenCombine : Prop :=
  HasRows .slo [(.zpg, 0x07), (.zpgx, 0x17), (.abs, 0x0F), (.absx, 0x1F), (.absy, 0x1B), (.indx, 0x03), (.indy, 0x13)] ∧
  HasRows .rla [(.zpg, 0x27), (.zpgx, 0x37), (.abs, 0x2F), (.absx, 0x3F), (.absy, 0x3B), (.indx, 0x23), (.indy, 0x33)] ∧
  HasRows .sre [(.zpg, 0x47), (.zpgx, 0x57), (.abs, 0x4F), (.absx, 0x5F), (.absy, 0x5B), (.indx, 0x43), (.indy, 0x53)] ∧
  HasRows .rra [(.zpg, 0x67), (.zpgx, 0x77), (.abs, 0x6F), (.absx, 0x7F), (.absy, 0x7B), (.indx, 0x63), (.indy, 0x73)] ∧
  ∀ (o : Operand) (s : State),
    let m := operandValue o s
    let c0 : Byte := if s.flag .c then 1 else 0
    ((Instr.slo o).wf = true → Completes (.slo o) s (fun t =>
      let r := m <<< 1
      t.a = s.a ||| r ∧ t.flag .c = m.getLsbD 7 ∧ NZof (s.a ||| r) t ∧ ModifiesOperand o r [.a] [.n, .z, .c] s t)) ∧
    ((Instr.rla o).wf = true → Completes (.rla o) s (fun t =>
      let r := (m <<< 1) ||| c0
      t.a = s.a &&& r ∧ t.flag .c = m.getLsbD 7 ∧ NZof (s.a &&& r) t ∧ ModifiesOperand o r [.a] [.n, .z, .c] s t)) ∧
    ((Instr.sre o).wf = true → Completes (.sre o) s (fun t =>
      let r := m >>> 1
      t.a = s.a ^^^ r ∧ t.flag .c = m.getLsbD 0 ∧ NZof (s.a ^^^ r) t ∧ ModifiesOperand o r [.a] [.n, .z, .c] s t)) ∧
    ((Instr.rra o).wf = true → Completes (.rra o) s (fun t =>
      let r := (m >>> 1) ||| (c0 <<< 7)
      let d := addWithCarry s.a r (m.getLsbD 0)
      t.a = d.result ∧ t.flag .c = d.carry ∧ t.flag .v = d.overflow ∧ NZof d.result t ∧
      ModifiesOperand o r [.a] [.n, .v, .z, .c] s t))

/-- ALR, ANC, ARR (`46_undocumented.md` R259, R260, R261). -/
def Obligations.ImmediateAndCompositesSetCarry : Prop :=
  (∀ ii : Byte, HasBytes (.alr ii) [0x4B, ii] ∧ HasBytes (.anc 0 ii) [0x0B, ii] ∧ HasBytes (.anc 1 ii) [0x2B, ii] ∧
    HasBytes (.arr ii) [0x6B, ii]) ∧
  ∀ (ii : Byte) (s : State),
    let m := s.a &&& ii
    let rot := (m >>> 1) ||| ((if s.flag .c then 1 else 0 : Byte) <<< 7)
    Completes (.alr ii) s (fun t => t.a = m >>> 1 ∧ t.flag .c = m.getLsbD 0 ∧ t.flag .n = false ∧ NZof (m >>> 1) t ∧
      ReadsOperand (.imm ii) [.a] [.n, .z, .c] s t) ∧
    (∀ k : Fin 2, Completes (.anc k ii) s (fun t => t.a = m ∧ NZof m t ∧ t.flag .c = t.flag .n ∧
      ReadsOperand (.imm ii) [.a] [.n, .z, .c] s t)) ∧
    Completes (.arr ii) s (fun t => t.a = rot ∧ NZof rot t ∧ t.flag .c = rot.getLsbD 6 ∧
      t.flag .v = (rot.getLsbD 6 ^^ rot.getLsbD 5) ∧ ReadsOperand (.imm ii) [.a] [.n, .v, .z, .c] s t)

/-- SBX, USB, LAS (`46_undocumented.md` R262, R263, R264); USB does what SBC immediate does. -/
def Obligations.SbxUsbLas : Prop :=
  (∀ ii : Byte, HasBytes (.sbx ii) [0xCB, ii] ∧ HasBytes (.usb ii) [0xEB, ii]) ∧
  (∀ w : Word, HasBytes (.las w) [0xBB, loByte w, hiByte w]) ∧
  (∀ (ii : Byte) (s : State),
    Completes (.sbx ii) s (fun t => t.x = (s.a &&& s.x) - ii ∧ t.flag .c = decide (ii.toNat ≤ (s.a &&& s.x).toNat) ∧
      NZof ((s.a &&& s.x) - ii) t ∧ ReadsOperand (.imm ii) [.x] [.n, .z, .c] s t) ∧
    Completes (.usb ii) s (fun t => exec (.sbc (.imm ii)) s = .next t ∧
      t.a = (addWithCarry s.a (ii ^^^ 0xFF) (s.flag .c)).result ∧
      ReadsOperand (.imm ii) [.a] [.n, .v, .z, .c] s t)) ∧
  ∀ (w : Word) (s : State),
    let v := s.peek (w + zext16 s.y) &&& s.sp
    Completes (.las w) s (fun t => t.a = v ∧ t.x = v ∧ t.sp = v ∧ NZof v t ∧
      ReadsOperand (.absy w) [.a, .x, .sp] [.n, .z] s t)

/-- The unstable opcodes (`46_undocumented.md` R265 to R271): as no-ops of their mode under `UNSTABLE_POLICY = nop`, which is
the machine's setting (log entry 3); under `refuse` they have no meaning. -/
def Obligations.UnstableOpcodesFollowThePolicy : Prop :=
  (∀ ii : Byte, HasBytes (.ane ii) [0x8B, ii] ∧ HasBytes (.lxa ii) [0xAB, ii]) ∧
  HasRows .sha [(.absy, 0x9F), (.indy, 0x93)] ∧
  (∀ w : Word, HasBytes (.shx w) [0x9E, loByte w, hiByte w] ∧ HasBytes (.shy w) [0x9C, loByte w, hiByte w] ∧
    HasBytes (.tas w) [0x9B, loByte w, hiByte w]) ∧
  (∀ (ii : Byte) (o : Operand) (w : Word) (s : State),
    Completes (.ane ii) s (IgnoresOperand (.imm ii) s) ∧ Completes (.lxa ii) s (IgnoresOperand (.imm ii) s) ∧
    Completes (.sha o) s (IgnoresOperand o s) ∧ Completes (.shx w) s (IgnoresOperand (.absy w) s) ∧
    Completes (.shy w) s (IgnoresOperand (.absx w) s) ∧ Completes (.tas w) s (IgnoresOperand (.absy w) s)) ∧
  ∀ (name : String) (o : Operand) (s : State),
    (∃ t, unstable .nop name o s = .next t ∧ IgnoresOperand o s t) ∧
    unstable .refuse name o s = .refused (.unstableOpcode name)

/-! ## Interrupts -/

/-- irq() and nmi() (`60_exceptions.md` R303 to R306, R313): when taken, PC and the status byte with bit 5 set and B clear are
pushed, I is set and PC comes from the vector; irq() is dropped while I is set, both are dropped while Jammed; under
`INTERRUPT_POLICY = refuse` neither has a meaning. -/
def Obligations.InterruptInputs : Prop :=
  (∀ (vector : Word) (s : State),
    let t := interruptEntry vector s
    t.peek (stackAddr s.sp) = hiByte s.pc ∧ t.peek (stackAddr (s.sp - 1)) = loByte s.pc ∧
    t.peek (stackAddr (s.sp - 2)) = (s.p ||| 0x20) &&& 0xEF ∧ t.sp = s.sp - 3 ∧ t.flag .i = true ∧
    t.pc = word (t.peek (vector + 1)) (t.peek vector) ∧ Keeps [.sp] [.i] s t ∧
    BytesKeptBut [stackAddr s.sp, stackAddr (s.sp - 1), stackAddr (s.sp - 2)] s t ∧
    Accessed [.write (stackAddr s.sp) (hiByte s.pc), .write (stackAddr (s.sp - 1)) (loByte s.pc),
      .write (stackAddr (s.sp - 2)) ((s.p ||| 0x20) &&& 0xEF), .read vector (t.peek vector),
      .read (vector + 1) (t.peek (vector + 1))] s t) ∧
  ∀ s : State,
    irqInput .modelled s = .next (if s.halted = true ∨ s.flag .i = true then s else interruptEntry 0xFFFE s) ∧
    nmiInput .modelled s = .next (if s.halted = true then s else interruptEntry 0xFFFA s) ∧
    irqInput .refuse s = .refused .interruptInput ∧ nmiInput .refuse s = .refused .interruptInput

/-- RTI after an interrupt entry resumes exactly: PC, S and the whole of P as they were; after BRK the same, one byte further
(`60_exceptions.md` R309). It holds for every S, wherever the handler left PC. -/
def Obligations.RtiResumes : Prop :=
  (∀ (vector pc' : Word) (s : State), Completes .rti ((interruptEntry vector s).setPc pc') (fun u =>
    u.pc = s.pc ∧ u.sp = s.sp ∧ u.p = s.p ∧ Keeps [] [] s u)) ∧
  ∀ (pc' : Word) (s t : State), exec .brk s = .next t → Completes .rti (t.setPc pc') (fun u =>
    u.pc = s.pc + 1 ∧ u.sp = s.sp ∧ u.p = s.p ∧ Keeps [] [] s u)

/-- The order of the host's calls is the order of the events (`60_exceptions.md` R307): an irq() right after an accepted
irq() or nmi() is dropped, and an nmi() right after nests on it. The default policy, log entry 4. -/
def Obligations.InterruptsFollowTheCallOrder : Prop :=
  ∀ s : State,
    runInputs [.nmi, .irq] s = (if s.halted = true then .next s else .next (interruptEntry 0xFFFA s)) ∧
    runInputs [.irq, .irq] s = runInputs [.irq] s ∧
    (s.halted = false → s.flag .i = false →
      runInputs [.irq, .nmi] s = .next (interruptEntry 0xFFFA (interruptEntry 0xFFFE s)))
end

