-- ==== Sys2Proof/Laws/Bytes.lean ====
section
/-! SUPPORT. A 16-bit quantity is its two bytes (`20_memory.md` R52). -/

namespace Sys2Proof.Machine

@[simp] theorem hiByte_word (hi lo : Byte) : hiByte (word hi lo) = hi := by
  have := hi.isLt; have := lo.isLt
  apply BitVec.eq_of_toNat_eq
  simp only [hiByte, word, BitVec.toNat_ofNat]
  omega

@[simp] theorem loByte_word (hi lo : Byte) : loByte (word hi lo) = lo := by
  have := hi.isLt; have := lo.isLt
  apply BitVec.eq_of_toNat_eq
  simp only [loByte, word, BitVec.toNat_ofNat]
  omega

@[simp] theorem word_hiByte_loByte (w : Word) : word (hiByte w) (loByte w) = w := by
  have := w.isLt
  apply BitVec.eq_of_toNat_eq
  simp only [hiByte, loByte, word, BitVec.toNat_ofNat]
  omega

/-- A zero-extended byte is an address of the zero page. -/
theorem zext16_toNat (b : Byte) : (zext16 b).toNat = b.toNat := by
  have := b.isLt
  simp only [zext16, BitVec.toNat_setWidth]
  omega

/-- The successor inside a page keeps the page. -/
@[simp] theorem hiByte_nextInPage (a : Word) : hiByte (nextInPage a) = hiByte a := by simp [nextInPage]

end Sys2Proof.Machine
end

