-- ==== Sys2Proof/Laws/Encoding.lean ====
section
/-! SUPPORT. The small lemmas of the decoder and the encoder: one equation for each length, the table lookup of a
mnemonic as membership, and the bytes of a word. -/

namespace Sys2Proof.Machine

/-- A lookup among rows whose modes are all different is membership. -/
theorem lookup_eq_some_iff_mem (rows : List (Mode × Byte)) (h : (rows.map Prod.fst).Nodup) (m : Mode) (b : Byte) :
    rows.lookup m = some b ↔ (m, b) ∈ rows := by
  induction rows with
  | nil => simp
  | cons r rows ih =>
    obtain ⟨k, c⟩ := r
    simp only [List.map_cons, List.nodup_cons, List.mem_map, not_exists, not_and] at h
    by_cases hm : m = k
    · subst hm
      have : (m, b) ∉ rows := fun hb => h.1 (m, b) hb rfl
      simp [List.lookup, this, eq_comm]
    · have : (m == k) = false := by simpa using hm
      simp [List.lookup, this, hm, ih h.2]

/-- An instruction whose opcode byte is looked up by its operand's mode has the rows of that lookup. -/
theorem hasRows_of_lookup (f : Operand → Instr) (rows : List (Mode × Byte)) (h : (rows.map Prod.fst).Nodup)
    (hf : ∀ o, opcodeOf (f o) = rows.lookup o.mode) (ho : ∀ o, (f o).operand = o) : HasRows f rows := by
  intro o b
  rw [← lookup_eq_some_iff_mem rows h, ← hf o]
  cases hb : opcodeOf (f o) <;> simp [encode, hb, ho]

theorem decode_length_zero (opcode : Byte) (rest : List Byte) (h : (tableEntry opcode).mode.operandLength = 0) :
    decode (opcode :: rest) = .ok (instrOf opcode 0 0, rest) := by simp [decode, h]

theorem decode_length_one (opcode b1 : Byte) (rest : List Byte) (h : (tableEntry opcode).mode.operandLength = 1) :
    decode (opcode :: b1 :: rest) = .ok (instrOf opcode b1 0, rest) := by simp [decode, h]

theorem decode_length_two (opcode b1 b2 : Byte) (rest : List Byte)
    (h : (tableEntry opcode).mode.operandLength = 2) :
    decode (opcode :: b1 :: b2 :: rest) = .ok (instrOf opcode b1 b2, rest) := by simp [decode, h]

theorem operandLength_le_two (m : Mode) : m.operandLength ≤ 2 := by cases m <;> decide

end Sys2Proof.Machine
end

