-- ==== Sys2Proof/Laws/State.lean ====
section
/-! SUPPORT. One lemma per field per update of the state, true by definition: no later proof unfolds a record update. -/

namespace Sys2Proof.Machine

@[simp] theorem State.setA_a (s : State) (v : Byte) : (s.setA v).a = v := rfl
@[simp] theorem State.setA_x (s : State) (v : Byte) : (s.setA v).x = s.x := rfl
@[simp] theorem State.setA_y (s : State) (v : Byte) : (s.setA v).y = s.y := rfl
@[simp] theorem State.setA_sp (s : State) (v : Byte) : (s.setA v).sp = s.sp := rfl
@[simp] theorem State.setA_p (s : State) (v : Byte) : (s.setA v).p = s.p := rfl
@[simp] theorem State.setA_pc (s : State) (v : Byte) : (s.setA v).pc = s.pc := rfl
@[simp] theorem State.setA_halted (s : State) (v : Byte) : (s.setA v).halted = s.halted := rfl
@[simp] theorem State.setA_mem (s : State) (v : Byte) : (s.setA v).mem = s.mem := rfl
@[simp] theorem State.setA_bus (s : State) (v : Byte) : (s.setA v).bus = s.bus := rfl

@[simp] theorem State.setX_a (s : State) (v : Byte) : (s.setX v).a = s.a := rfl
@[simp] theorem State.setX_x (s : State) (v : Byte) : (s.setX v).x = v := rfl
@[simp] theorem State.setX_y (s : State) (v : Byte) : (s.setX v).y = s.y := rfl
@[simp] theorem State.setX_sp (s : State) (v : Byte) : (s.setX v).sp = s.sp := rfl
@[simp] theorem State.setX_p (s : State) (v : Byte) : (s.setX v).p = s.p := rfl
@[simp] theorem State.setX_pc (s : State) (v : Byte) : (s.setX v).pc = s.pc := rfl
@[simp] theorem State.setX_halted (s : State) (v : Byte) : (s.setX v).halted = s.halted := rfl
@[simp] theorem State.setX_mem (s : State) (v : Byte) : (s.setX v).mem = s.mem := rfl
@[simp] theorem State.setX_bus (s : State) (v : Byte) : (s.setX v).bus = s.bus := rfl

@[simp] theorem State.setY_a (s : State) (v : Byte) : (s.setY v).a = s.a := rfl
@[simp] theorem State.setY_x (s : State) (v : Byte) : (s.setY v).x = s.x := rfl
@[simp] theorem State.setY_y (s : State) (v : Byte) : (s.setY v).y = v := rfl
@[simp] theorem State.setY_sp (s : State) (v : Byte) : (s.setY v).sp = s.sp := rfl
@[simp] theorem State.setY_p (s : State) (v : Byte) : (s.setY v).p = s.p := rfl
@[simp] theorem State.setY_pc (s : State) (v : Byte) : (s.setY v).pc = s.pc := rfl
@[simp] theorem State.setY_halted (s : State) (v : Byte) : (s.setY v).halted = s.halted := rfl
@[simp] theorem State.setY_mem (s : State) (v : Byte) : (s.setY v).mem = s.mem := rfl
@[simp] theorem State.setY_bus (s : State) (v : Byte) : (s.setY v).bus = s.bus := rfl

@[simp] theorem State.setSp_a (s : State) (v : Byte) : (s.setSp v).a = s.a := rfl
@[simp] theorem State.setSp_x (s : State) (v : Byte) : (s.setSp v).x = s.x := rfl
@[simp] theorem State.setSp_y (s : State) (v : Byte) : (s.setSp v).y = s.y := rfl
@[simp] theorem State.setSp_sp (s : State) (v : Byte) : (s.setSp v).sp = v := rfl
@[simp] theorem State.setSp_p (s : State) (v : Byte) : (s.setSp v).p = s.p := rfl
@[simp] theorem State.setSp_pc (s : State) (v : Byte) : (s.setSp v).pc = s.pc := rfl
@[simp] theorem State.setSp_halted (s : State) (v : Byte) : (s.setSp v).halted = s.halted := rfl
@[simp] theorem State.setSp_mem (s : State) (v : Byte) : (s.setSp v).mem = s.mem := rfl
@[simp] theorem State.setSp_bus (s : State) (v : Byte) : (s.setSp v).bus = s.bus := rfl

@[simp] theorem State.setP_a (s : State) (v : Byte) : (s.setP v).a = s.a := rfl
@[simp] theorem State.setP_x (s : State) (v : Byte) : (s.setP v).x = s.x := rfl
@[simp] theorem State.setP_y (s : State) (v : Byte) : (s.setP v).y = s.y := rfl
@[simp] theorem State.setP_sp (s : State) (v : Byte) : (s.setP v).sp = s.sp := rfl
@[simp] theorem State.setP_p (s : State) (v : Byte) : (s.setP v).p = v := rfl
@[simp] theorem State.setP_pc (s : State) (v : Byte) : (s.setP v).pc = s.pc := rfl
@[simp] theorem State.setP_halted (s : State) (v : Byte) : (s.setP v).halted = s.halted := rfl
@[simp] theorem State.setP_mem (s : State) (v : Byte) : (s.setP v).mem = s.mem := rfl
@[simp] theorem State.setP_bus (s : State) (v : Byte) : (s.setP v).bus = s.bus := rfl

@[simp] theorem State.setPc_a (s : State) (v : Word) : (s.setPc v).a = s.a := rfl
@[simp] theorem State.setPc_x (s : State) (v : Word) : (s.setPc v).x = s.x := rfl
@[simp] theorem State.setPc_y (s : State) (v : Word) : (s.setPc v).y = s.y := rfl
@[simp] theorem State.setPc_sp (s : State) (v : Word) : (s.setPc v).sp = s.sp := rfl
@[simp] theorem State.setPc_p (s : State) (v : Word) : (s.setPc v).p = s.p := rfl
@[simp] theorem State.setPc_pc (s : State) (v : Word) : (s.setPc v).pc = v := rfl
@[simp] theorem State.setPc_halted (s : State) (v : Word) : (s.setPc v).halted = s.halted := rfl
@[simp] theorem State.setPc_mem (s : State) (v : Word) : (s.setPc v).mem = s.mem := rfl
@[simp] theorem State.setPc_bus (s : State) (v : Word) : (s.setPc v).bus = s.bus := rfl

@[simp] theorem State.setHalted_a (s : State) (v : Bool) : (s.setHalted v).a = s.a := rfl
@[simp] theorem State.setHalted_x (s : State) (v : Bool) : (s.setHalted v).x = s.x := rfl
@[simp] theorem State.setHalted_y (s : State) (v : Bool) : (s.setHalted v).y = s.y := rfl
@[simp] theorem State.setHalted_sp (s : State) (v : Bool) : (s.setHalted v).sp = s.sp := rfl
@[simp] theorem State.setHalted_p (s : State) (v : Bool) : (s.setHalted v).p = s.p := rfl
@[simp] theorem State.setHalted_pc (s : State) (v : Bool) : (s.setHalted v).pc = s.pc := rfl
@[simp] theorem State.setHalted_halted (s : State) (v : Bool) : (s.setHalted v).halted = v := rfl
@[simp] theorem State.setHalted_mem (s : State) (v : Bool) : (s.setHalted v).mem = s.mem := rfl
@[simp] theorem State.setHalted_bus (s : State) (v : Bool) : (s.setHalted v).bus = s.bus := rfl

@[simp] theorem State.putFlag_a (s : State) (f : Flag) (v : Bool) : (s.putFlag f v).a = s.a := rfl
@[simp] theorem State.putFlag_x (s : State) (f : Flag) (v : Bool) : (s.putFlag f v).x = s.x := rfl
@[simp] theorem State.putFlag_y (s : State) (f : Flag) (v : Bool) : (s.putFlag f v).y = s.y := rfl
@[simp] theorem State.putFlag_sp (s : State) (f : Flag) (v : Bool) : (s.putFlag f v).sp = s.sp := rfl
@[simp] theorem State.putFlag_p (s : State) (f : Flag) (v : Bool) : (s.putFlag f v).p = Machine.putFlag s.p f v := rfl
@[simp] theorem State.putFlag_pc (s : State) (f : Flag) (v : Bool) : (s.putFlag f v).pc = s.pc := rfl
@[simp] theorem State.putFlag_halted (s : State) (f : Flag) (v : Bool) : (s.putFlag f v).halted = s.halted := rfl
@[simp] theorem State.putFlag_mem (s : State) (f : Flag) (v : Bool) : (s.putFlag f v).mem = s.mem := rfl
@[simp] theorem State.putFlag_bus (s : State) (f : Flag) (v : Bool) : (s.putFlag f v).bus = s.bus := rfl

@[simp] theorem State.setNZ_a (s : State) (v : Byte) : (s.setNZ v).a = s.a := rfl
@[simp] theorem State.setNZ_x (s : State) (v : Byte) : (s.setNZ v).x = s.x := rfl
@[simp] theorem State.setNZ_y (s : State) (v : Byte) : (s.setNZ v).y = s.y := rfl
@[simp] theorem State.setNZ_sp (s : State) (v : Byte) : (s.setNZ v).sp = s.sp := rfl
@[simp] theorem State.setNZ_p (s : State) (v : Byte) : (s.setNZ v).p = withNZ s.p v := rfl
@[simp] theorem State.setNZ_pc (s : State) (v : Byte) : (s.setNZ v).pc = s.pc := rfl
@[simp] theorem State.setNZ_halted (s : State) (v : Byte) : (s.setNZ v).halted = s.halted := rfl
@[simp] theorem State.setNZ_mem (s : State) (v : Byte) : (s.setNZ v).mem = s.mem := rfl
@[simp] theorem State.setNZ_bus (s : State) (v : Byte) : (s.setNZ v).bus = s.bus := rfl

@[simp] theorem State.compare_a (s : State) (r m : Byte) : (s.compare r m).a = s.a := rfl
@[simp] theorem State.compare_x (s : State) (r m : Byte) : (s.compare r m).x = s.x := rfl
@[simp] theorem State.compare_y (s : State) (r m : Byte) : (s.compare r m).y = s.y := rfl
@[simp] theorem State.compare_sp (s : State) (r m : Byte) : (s.compare r m).sp = s.sp := rfl
@[simp] theorem State.compare_p (s : State) (r m : Byte) : (s.compare r m).p = withCompare s.p r m := rfl
@[simp] theorem State.compare_pc (s : State) (r m : Byte) : (s.compare r m).pc = s.pc := rfl
@[simp] theorem State.compare_halted (s : State) (r m : Byte) : (s.compare r m).halted = s.halted := rfl
@[simp] theorem State.compare_mem (s : State) (r m : Byte) : (s.compare r m).mem = s.mem := rfl
@[simp] theorem State.compare_bus (s : State) (r m : Byte) : (s.compare r m).bus = s.bus := rfl

@[simp] theorem State.noteRead_a (s : State) (a : Word) (v : Byte) : (s.noteRead a v).a = s.a := rfl
@[simp] theorem State.noteRead_x (s : State) (a : Word) (v : Byte) : (s.noteRead a v).x = s.x := rfl
@[simp] theorem State.noteRead_y (s : State) (a : Word) (v : Byte) : (s.noteRead a v).y = s.y := rfl
@[simp] theorem State.noteRead_sp (s : State) (a : Word) (v : Byte) : (s.noteRead a v).sp = s.sp := rfl
@[simp] theorem State.noteRead_p (s : State) (a : Word) (v : Byte) : (s.noteRead a v).p = s.p := rfl
@[simp] theorem State.noteRead_pc (s : State) (a : Word) (v : Byte) : (s.noteRead a v).pc = s.pc := rfl
@[simp] theorem State.noteRead_halted (s : State) (a : Word) (v : Byte) : (s.noteRead a v).halted = s.halted := rfl
@[simp] theorem State.noteRead_mem (s : State) (a : Word) (v : Byte) : (s.noteRead a v).mem = s.mem := rfl
@[simp] theorem State.noteRead_bus (s : State) (a : Word) (v : Byte) : (s.noteRead a v).bus = .read a v :: s.bus := rfl

@[simp] theorem memWrite_a (s : State) (a : Word) (v : Byte) : (memWrite a v s).a = s.a := rfl
@[simp] theorem memWrite_x (s : State) (a : Word) (v : Byte) : (memWrite a v s).x = s.x := rfl
@[simp] theorem memWrite_y (s : State) (a : Word) (v : Byte) : (memWrite a v s).y = s.y := rfl
@[simp] theorem memWrite_sp (s : State) (a : Word) (v : Byte) : (memWrite a v s).sp = s.sp := rfl
@[simp] theorem memWrite_p (s : State) (a : Word) (v : Byte) : (memWrite a v s).p = s.p := rfl
@[simp] theorem memWrite_pc (s : State) (a : Word) (v : Byte) : (memWrite a v s).pc = s.pc := rfl
@[simp] theorem memWrite_halted (s : State) (a : Word) (v : Byte) : (memWrite a v s).halted = s.halted := rfl
@[simp] theorem memWrite_mem (s : State) (a : Word) (v : Byte) : (memWrite a v s).mem = s.mem.write a.toNat v := rfl
@[simp] theorem memWrite_bus (s : State) (a : Word) (v : Byte) : (memWrite a v s).bus = .write a v :: s.bus := rfl

@[simp] theorem State.addToA_x (s : State) (m : Byte) : (s.addToA m).x = s.x := rfl
@[simp] theorem State.addToA_y (s : State) (m : Byte) : (s.addToA m).y = s.y := rfl
@[simp] theorem State.addToA_sp (s : State) (m : Byte) : (s.addToA m).sp = s.sp := rfl
@[simp] theorem State.addToA_pc (s : State) (m : Byte) : (s.addToA m).pc = s.pc := rfl
@[simp] theorem State.addToA_halted (s : State) (m : Byte) : (s.addToA m).halted = s.halted := rfl
@[simp] theorem State.addToA_mem (s : State) (m : Byte) : (s.addToA m).mem = s.mem := rfl
@[simp] theorem State.addToA_bus (s : State) (m : Byte) : (s.addToA m).bus = s.bus := rfl

@[simp] theorem State.addToA_a (s : State) (m : Byte) :
    (s.addToA m).a = (addWithCarry s.a m (s.flag .c)).result := rfl

@[simp] theorem State.addToA_p (s : State) (m : Byte) :
    (s.addToA m).p =
      withNZ (Machine.putFlag (Machine.putFlag s.p .c (addWithCarry s.a m (s.flag .c)).carry) .v
        (addWithCarry s.a m (s.flag .c)).overflow) (addWithCarry s.a m (s.flag .c)).result := rfl

@[simp] theorem State.setA_flag (s : State) (v : Byte) (f : Flag) : (s.setA v).flag f = s.flag f := rfl
@[simp] theorem State.setA_peek (s : State) (v : Byte) (b : Word) : (s.setA v).peek b = s.peek b := rfl
@[simp] theorem State.setX_flag (s : State) (v : Byte) (f : Flag) : (s.setX v).flag f = s.flag f := rfl
@[simp] theorem State.setX_peek (s : State) (v : Byte) (b : Word) : (s.setX v).peek b = s.peek b := rfl
@[simp] theorem State.setY_flag (s : State) (v : Byte) (f : Flag) : (s.setY v).flag f = s.flag f := rfl
@[simp] theorem State.setY_peek (s : State) (v : Byte) (b : Word) : (s.setY v).peek b = s.peek b := rfl
@[simp] theorem State.setSp_flag (s : State) (v : Byte) (f : Flag) : (s.setSp v).flag f = s.flag f := rfl
@[simp] theorem State.setSp_peek (s : State) (v : Byte) (b : Word) : (s.setSp v).peek b = s.peek b := rfl
@[simp] theorem State.setP_peek (s : State) (v : Byte) (b : Word) : (s.setP v).peek b = s.peek b := rfl
@[simp] theorem State.setPc_flag (s : State) (v : Word) (f : Flag) : (s.setPc v).flag f = s.flag f := rfl
@[simp] theorem State.setPc_peek (s : State) (v : Word) (b : Word) : (s.setPc v).peek b = s.peek b := rfl
@[simp] theorem State.setHalted_flag (s : State) (v : Bool) (f : Flag) : (s.setHalted v).flag f = s.flag f := rfl
@[simp] theorem State.setHalted_peek (s : State) (v : Bool) (b : Word) : (s.setHalted v).peek b = s.peek b := rfl

@[simp] theorem State.setP_flag (s : State) (v : Byte) (f : Flag) : (s.setP v).flag f = getFlag v f := rfl
@[simp] theorem State.putFlag_peek (s : State) (f : Flag) (v : Bool) (b : Word) :
    (s.putFlag f v).peek b = s.peek b := rfl
@[simp] theorem State.setNZ_peek (s : State) (v : Byte) (b : Word) : (s.setNZ v).peek b = s.peek b := rfl
@[simp] theorem State.compare_peek (s : State) (r m : Byte) (b : Word) : (s.compare r m).peek b = s.peek b := rfl
@[simp] theorem State.addToA_peek (s : State) (m : Byte) (b : Word) : (s.addToA m).peek b = s.peek b := rfl
@[simp] theorem State.noteRead_peek (s : State) (a : Word) (v : Byte) (b : Word) :
    (s.noteRead a v).peek b = s.peek b := rfl
@[simp] theorem State.noteRead_flag (s : State) (a : Word) (v : Byte) (f : Flag) :
    (s.noteRead a v).flag f = s.flag f := rfl
@[simp] theorem memWrite_flag (s : State) (a : Word) (v : Byte) (f : Flag) :
    (memWrite a v s).flag f = s.flag f := rfl

end Sys2Proof.Machine
end

