-- ==== Sys2Proof/Laws/Flags.lean ====
section
/-! SUPPORT. What each flag of a status byte is after the flag operations (`10_state.md` R31 to R34). -/

namespace Sys2Proof.Machine

/-- Writing a flag changes that flag only. -/
@[simp] theorem getFlag_putFlag (p : Byte) (f g : Flag) (v : Bool) :
    getFlag (putFlag p f v) g = if g = f then v else getFlag p g := by
  cases v <;> cases f <;> cases g <;> simp [getFlag, putFlag, Flag.mask, Flag.index]

@[simp] theorem getFlag_withNZ (p v : Byte) (g : Flag) :
    getFlag (withNZ p v) g =
      if g = .z then decide (v = 0) else if g = .n then v.getLsbD 7 else getFlag p g := by
  simp [withNZ]

@[simp] theorem getFlag_withCompare (p r m : Byte) (g : Flag) :
    getFlag (withCompare p r m) g =
      if g = .n then (r - m).getLsbD 7
      else if g = .z then decide (r = m)
      else if g = .c then decide (m.toNat ≤ r.toNat) else getFlag p g := by
  simp [withCompare]

@[simp] theorem getFlag_pushForm (p : Byte) (g : Flag) :
    getFlag (pushForm p) g = (if g = .u ∨ g = .b then true else getFlag p g) := by
  cases g <;> simp [getFlag, pushForm, Flag.index]

@[simp] theorem getFlag_pullForm (p b : Byte) (g : Flag) :
    getFlag (pullForm p b) g = (if g = .u ∨ g = .b then getFlag p g else getFlag b g) := by
  cases g <;> simp [getFlag, pullForm, Flag.index]

@[simp] theorem getFlag_interruptForm (p : Byte) (g : Flag) :
    getFlag (interruptForm p) g = (if g = .u then true else if g = .b then false else getFlag p g) := by
  cases g <;> simp [getFlag, interruptForm, Flag.index]

/-- A status byte is its eight flags. -/
theorem status_ext (p q : Byte) (h : ∀ f, getFlag p f = getFlag q f) : p = q := by
  apply BitVec.eq_of_getLsbD_eq
  intro k hk
  have := h .n; have := h .v; have := h .u; have := h .b
  have := h .d; have := h .i; have := h .z; have := h .c
  simp only [getFlag, Flag.index] at *
  interval_cases k <;> assumption

/-- One spelling for a flag of the state's status register (not a simp lemma: `State.flag` unfolds to the left side). -/
theorem getFlag_p (s : State) (f : Flag) : getFlag s.p f = s.flag f := rfl

@[simp] theorem State.putFlag_flag (s : State) (f g : Flag) (v : Bool) :
    (s.putFlag f v).flag g = if g = f then v else s.flag g := getFlag_putFlag s.p f g v

@[simp] theorem State.setNZ_flag (s : State) (v : Byte) (g : Flag) :
    (s.setNZ v).flag g =
      if g = .z then decide (v = 0) else if g = .n then v.getLsbD 7 else s.flag g :=
  getFlag_withNZ s.p v g

@[simp] theorem State.compare_flag (s : State) (r m : Byte) (g : Flag) :
    (s.compare r m).flag g =
      if g = .n then (r - m).getLsbD 7
      else if g = .z then decide (r = m)
      else if g = .c then decide (m.toNat ≤ r.toNat) else s.flag g := getFlag_withCompare s.p r m g

/-- The flags after an add to the accumulator: C and V of the adder, N and Z of its result. -/
@[simp] theorem State.addToA_flag (s : State) (m : Byte) (g : Flag) :
    (s.addToA m).flag g =
      if g = .z then decide ((addWithCarry s.a m (s.flag .c)).result = 0)
      else if g = .n then (addWithCarry s.a m (s.flag .c)).result.getLsbD 7
      else if g = .v then (addWithCarry s.a m (s.flag .c)).overflow
      else if g = .c then (addWithCarry s.a m (s.flag .c)).carry else s.flag g := by
  simp [State.addToA]

end Sys2Proof.Machine
end

