-- ==== Sys2Proof/Laws/Memory.lean ====
section
/-! SUPPORT. The laws of memory: a read after a write, and the canonical form that every write keeps. -/

namespace Sys2Proof.Machine

theorem Memory.read_erase (m : Memory) (a b : Nat) :
    (m.erase a).read b = if b = a then Memory.unlisted else m.read b := by
  induction m with
  | nil => simp [Memory.erase, Memory.read]
  | cons c m ih =>
    obtain ⟨k, v⟩ := c
    by_cases h : a = k
    · subst h
      by_cases hb : b = a
      · subst hb; simpa [Memory.erase] using ih
      · simp [Memory.erase, Memory.read, ih, hb]
    · by_cases hb : b = k
      · subst hb; simp [Memory.erase, Memory.read, h]; intro h'; exact absurd h'.symm h
      · simp [Memory.erase, Memory.read, h, hb, ih]

theorem Memory.read_insert (m : Memory) (a b : Nat) (v : Byte) (h : m.read a = Memory.unlisted ∨ b ≠ a)
    (hm : ∀ c ∈ m, c.1 ≠ a) : (m.insert a v).read b = if b = a then v else m.read b := by
  induction m with
  | nil => simp [Memory.insert, Memory.read]
  | cons c m ih =>
    obtain ⟨k, w⟩ := c
    have hk : k ≠ a := hm (k, w) (by simp)
    have hm' : ∀ c ∈ m, c.1 ≠ a := fun c hc => hm c (by simp [hc])
    by_cases hlt : a < k
    · simp [Memory.insert, Memory.read, hlt]
    · by_cases hb : b = k
      · subst hb; simp [Memory.insert, Memory.read, hlt, hk]
      · have h' : Memory.read m a = Memory.unlisted ∨ b ≠ a := by
          rcases h with h | h
          · left; simpa [Memory.read, hk.symm] using h
          · exact .inr h
        simp [Memory.insert, Memory.read, hlt, hb, ih h' hm']

theorem Memory.not_mem_erase (m : Memory) (a : Nat) : ∀ c ∈ m.erase a, c.1 ≠ a := by
  induction m with
  | nil => simp [Memory.erase]
  | cons c m ih =>
    obtain ⟨k, v⟩ := c
    by_cases h : a = k
    · simpa [Memory.erase, h] using by simpa [h] using ih
    · simp only [Memory.erase, h, if_false, List.mem_cons]
      rintro d (rfl | hd)
      · exact fun h' => h h'.symm
      · exact ih d hd

/-- Read after write: the written byte at its own address, every other byte as it was. -/
theorem Memory.read_write (m : Memory) (a b : Nat) (v : Byte) :
    (m.write a v).read b = if b = a then v else m.read b := by
  unfold Memory.write
  split
  · next h => rw [Memory.read_erase]; simp [h]
  · rw [Memory.read_insert _ _ _ _ (.inl (by simp [Memory.read_erase])) (Memory.not_mem_erase m a),
      Memory.read_erase]
    by_cases hb : b = a <;> simp [hb]

theorem Memory.wfFrom_mono {lo hi : Nat} (h : lo ≤ hi) (m : Memory) (hm : Memory.wfFrom hi m = true) :
    Memory.wfFrom lo m = true := by
  cases m with
  | nil => rfl
  | cons c m =>
    simp only [Memory.wfFrom, Bool.and_eq_true, decide_eq_true_eq] at *
    exact ⟨⟨⟨by omega, hm.1.1.2⟩, hm.1.2⟩, hm.2⟩

theorem Memory.wfFrom_erase (m : Memory) (lo a : Nat) (h : Memory.wfFrom lo m = true) :
    Memory.wfFrom lo (m.erase a) = true := by
  induction m generalizing lo with
  | nil => rfl
  | cons c m ih =>
    obtain ⟨k, v⟩ := c
    simp only [Memory.wfFrom, Bool.and_eq_true, decide_eq_true_eq] at h
    by_cases hk : a = k
    · simpa [Memory.erase, hk] using
        Memory.wfFrom_mono (show lo ≤ k + 1 by omega) _ (by simpa [hk] using ih (k + 1) h.2)
    · simp only [Memory.erase, hk, if_false, Memory.wfFrom, Bool.and_eq_true, decide_eq_true_eq]
      exact ⟨h.1, ih _ h.2⟩

theorem Memory.wfFrom_insert (m : Memory) (lo a : Nat) (v : Byte) (h : Memory.wfFrom lo m = true) (hlo : lo ≤ a)
    (ha : a < 65536) (hv : v ≠ Memory.unlisted) (hm : ∀ c ∈ m, c.1 ≠ a) :
    Memory.wfFrom lo (m.insert a v) = true := by
  induction m generalizing lo with
  | nil => simp [Memory.insert, Memory.wfFrom, hlo, ha, hv]
  | cons c m ih =>
    obtain ⟨k, w⟩ := c
    simp only [Memory.wfFrom, Bool.and_eq_true, decide_eq_true_eq] at h
    have hk : k ≠ a := hm (k, w) (by simp)
    have hm' : ∀ c ∈ m, c.1 ≠ a := fun c hc => hm c (by simp [hc])
    by_cases hlt : a < k
    · simp only [Memory.insert, hlt, if_true, Memory.wfFrom, Bool.and_eq_true, decide_eq_true_eq]
      exact ⟨⟨⟨hlo, ha⟩, by simpa using hv⟩, ⟨⟨by omega, h.1.1.2⟩, h.1.2⟩, h.2⟩
    · simp only [Memory.insert, hlt, if_false, Memory.wfFrom, Bool.and_eq_true, decide_eq_true_eq]
      exact ⟨h.1, ih _ h.2 (by omega) hm'⟩

/-- A write keeps the canonical form. -/
theorem Memory.wf_write (m : Memory) (a : Nat) (v : Byte) (h : m.wf = true) (ha : a < 65536) :
    (m.write a v).wf = true := by
  unfold Memory.write
  split
  · exact Memory.wfFrom_erase m 0 a h
  · next hv =>
    exact Memory.wfFrom_insert _ 0 a v (Memory.wfFrom_erase m 0 a h) (by omega) ha hv (Memory.not_mem_erase m a)

/-- What a canonical memory reads below its first cell. -/
theorem Memory.read_below (m : Memory) (lo a : Nat) (h : Memory.wfFrom lo m = true) (ha : a < lo) :
    m.read a = Memory.unlisted := by
  induction m generalizing lo with
  | nil => rfl
  | cons c m ih =>
    obtain ⟨k, v⟩ := c
    simp only [Memory.wfFrom, Bool.and_eq_true, decide_eq_true_eq] at h
    have hk : a ≠ k := by omega
    simpa [Memory.read, hk] using ih (k + 1) h.2 (by omega)

/-- A memory in canonical form is what it reads as: memories that read the same at every address are equal data. -/
theorem Memory.eq_of_read_eq_from (m n : Memory) (lo : Nat) (hm : Memory.wfFrom lo m = true)
    (hn : Memory.wfFrom lo n = true) (h : ∀ a, lo ≤ a → Memory.read m a = Memory.read n a) : m = n := by
  induction m generalizing n lo with
  | nil =>
    cases n with
    | nil => rfl
    | cons c n =>
      obtain ⟨k, v⟩ := c
      simp only [Memory.wfFrom, Bool.and_eq_true, decide_eq_true_eq] at hn
      have := h k hn.1.1.1
      simp [Memory.read] at this
      exact absurd this.symm (by simpa using hn.1.2)
  | cons c m ih =>
    obtain ⟨j, w⟩ := c
    cases n with
    | nil =>
      simp only [Memory.wfFrom, Bool.and_eq_true, decide_eq_true_eq] at hm
      have := h j hm.1.1.1
      simp [Memory.read] at this
      exact absurd this (by simpa using hm.1.2)
    | cons c n =>
      obtain ⟨k, v⟩ := c
      simp only [Memory.wfFrom, Bool.and_eq_true, decide_eq_true_eq] at hm hn
      have hjk : j = k := by
        rcases Nat.lt_trichotomy j k with hlt | heq | hlt
        · have := h j hm.1.1.1
          rw [Memory.read, if_pos rfl, Memory.read, if_neg (by omega),
            Memory.read_below n (k + 1) j hn.2 (by omega)] at this
          exact absurd this (by simpa using hm.1.2)
        · exact heq
        · have := h k hn.1.1.1
          rw [Memory.read, if_neg (by omega), Memory.read_below m (j + 1) k hm.2 (by omega), Memory.read,
            if_pos rfl] at this
          exact absurd this.symm (by simpa using hn.1.2)
      subst hjk
      have hv : w = v := by simpa [Memory.read] using h j hm.1.1.1
      subst hv
      rw [ih n (j + 1) hm.2 hn.2 (fun a ha => by
        have := h a (by omega)
        rwa [Memory.read, if_neg (by omega), Memory.read, if_neg (by omega)] at this)]

theorem Memory.eq_of_read_eq (m n : Memory) (hm : m.wf = true) (hn : n.wf = true)
    (h : ∀ a, Memory.read m a = Memory.read n a) : m = n :=
  Memory.eq_of_read_eq_from m n 0 hm hn (fun a _ => h a)

/-- A read of the state after a bus write. -/
@[simp] theorem memWrite_peek (s : State) (a b : Word) (v : Byte) :
    (memWrite a v s).peek b = if b = a then v else s.peek b := by
  simp [State.peek, memWrite, Memory.read_write, BitVec.toNat_inj]

/-- A write at a bus address keeps the canonical form. -/
theorem Memory.wf_write_word (m : Memory) (a : Word) (v : Byte) (h : m.wf = true) : (m.write a.toNat v).wf = true :=
  Memory.wf_write m a.toNat v h a.isLt

/-- A bus write keeps the canonical form. -/
theorem memWrite_wf (s : State) (a : Word) (v : Byte) (h : s.mem.wf = true) :
    (memWrite a v s).mem.wf = true := Memory.wf_write s.mem a.toNat v h a.isLt

end Sys2Proof.Machine
end

