-- ==== Sys2Proof/Laws/Ops.lean ====
section
/-! SUPPORT. What each shared operation of the bus, the stack and the traps can do, said once. -/

namespace Sys2Proof.Machine

/-! ## Bus reads: the value, and nothing but the bus record changes -/

@[simp] theorem memRead_fst (a : Word) (s : State) : (memRead a s).1 = s.peek a := rfl
@[simp] theorem memRead_snd (a : Word) (s : State) : (memRead a s).2 = s.noteRead a (s.peek a) := rfl

@[simp] theorem readPair_fst (l h : Word) (s : State) : (readPair l h s).1 = word (s.peek h) (s.peek l) := rfl
@[simp] theorem readPair_snd (l h : Word) (s : State) :
    (readPair l h s).2 = (s.noteRead l (s.peek l)).noteRead h (s.peek h) := rfl

@[simp] theorem read16_fst (a : Word) (s : State) :
    (read16 a s).1 = word (s.peek (a + 1)) (s.peek a) := rfl
@[simp] theorem read16_snd (a : Word) (s : State) :
    (read16 a s).2 = (s.noteRead a (s.peek a)).noteRead (a + 1) (s.peek (a + 1)) := rfl

@[simp] theorem read16zp_fst (z : Byte) (s : State) :
    (read16zp z s).1 = word (s.peek (zext16 (z + 1))) (s.peek (zext16 z)) := rfl
@[simp] theorem read16zp_snd (z : Byte) (s : State) :
    (read16zp z s).2 =
      (s.noteRead (zext16 z) (s.peek (zext16 z))).noteRead (zext16 (z + 1)) (s.peek (zext16 (z + 1))) := rfl

@[simp] theorem read16bug_fst (a : Word) (s : State) :
    (read16bug a s).1 = word (s.peek (nextInPage a)) (s.peek a) := rfl
@[simp] theorem read16bug_snd (a : Word) (s : State) :
    (read16bug a s).2 = (s.noteRead a (s.peek a)).noteRead (nextInPage a) (s.peek (nextInPage a)) := rfl

/-! ## Stack -/

/-- Different stack pointers are different stack addresses. -/
theorem stackAddr_inj (p q : Byte) : stackAddr p = stackAddr q ↔ p = q := by
  constructor
  · intro h
    have := congrArg BitVec.toNat h
    have hp := p.isLt
    have hq := q.isLt
    apply BitVec.eq_of_toNat_eq
    simp only [stackAddr, zext16, Config.stackPage, BitVec.toNat_add, BitVec.toNat_setWidth] at this
    omega
  · rintro rfl; rfl

@[simp] theorem push8_a (v : Byte) (s : State) : (push8 v s).a = s.a := rfl
@[simp] theorem push8_x (v : Byte) (s : State) : (push8 v s).x = s.x := rfl
@[simp] theorem push8_y (v : Byte) (s : State) : (push8 v s).y = s.y := rfl
@[simp] theorem push8_sp (v : Byte) (s : State) : (push8 v s).sp = s.sp - 1 := rfl
@[simp] theorem push8_p (v : Byte) (s : State) : (push8 v s).p = s.p := rfl
@[simp] theorem push8_pc (v : Byte) (s : State) : (push8 v s).pc = s.pc := rfl
@[simp] theorem push8_halted (v : Byte) (s : State) : (push8 v s).halted = s.halted := rfl
@[simp] theorem push8_mem (v : Byte) (s : State) :
    (push8 v s).mem = s.mem.write (stackAddr s.sp).toNat v := rfl
@[simp] theorem push8_bus (v : Byte) (s : State) : (push8 v s).bus = .write (stackAddr s.sp) v :: s.bus := rfl
@[simp] theorem push8_flag (v : Byte) (s : State) (f : Flag) : (push8 v s).flag f = s.flag f := rfl
@[simp] theorem push8_peek (v : Byte) (s : State) (b : Word) :
    (push8 v s).peek b = if b = stackAddr s.sp then v else s.peek b := memWrite_peek s (stackAddr s.sp) b v

@[simp] theorem pull8_fst (s : State) : (pull8 s).1 = s.peek (stackAddr (s.sp + 1)) := rfl
@[simp] theorem pull8_snd (s : State) :
    (pull8 s).2 = (s.setSp (s.sp + 1)).noteRead (stackAddr (s.sp + 1)) (s.peek (stackAddr (s.sp + 1))) := rfl

@[simp] theorem pushWord_eq (w : Word) (s : State) : pushWord w s = push8 (loByte w) (push8 (hiByte w) s) := rfl

@[simp] theorem pullWord_fst (s : State) :
    (pullWord s).1 = word (s.peek (stackAddr (s.sp + 1 + 1))) (s.peek (stackAddr (s.sp + 1))) := by
  simp [pullWord]
@[simp] theorem pullWord_snd (s : State) :
    (pullWord s).2 =
      (((s.setSp (s.sp + 1)).noteRead (stackAddr (s.sp + 1)) (s.peek (stackAddr (s.sp + 1)))).setSp
        (s.sp + 1 + 1)).noteRead (stackAddr (s.sp + 1 + 1)) (s.peek (stackAddr (s.sp + 1 + 1))) := by
  simp [pullWord]

theorem push8_wf (v : Byte) (s : State) (h : s.mem.wf = true) : (push8 v s).mem.wf = true :=
  memWrite_wf s (stackAddr s.sp) v h

/-! ## Traps -/

section
variable (r : Word) (st : Byte) (vec : Word) (s : State)

@[simp] theorem takeTrap_a : (takeTrap r st vec s).a = s.a := by simp [takeTrap]
@[simp] theorem takeTrap_x : (takeTrap r st vec s).x = s.x := by simp [takeTrap]
@[simp] theorem takeTrap_y : (takeTrap r st vec s).y = s.y := by simp [takeTrap]
@[simp] theorem takeTrap_sp : (takeTrap r st vec s).sp = s.sp - 1 - 1 - 1 := by simp [takeTrap]
@[simp] theorem takeTrap_p : (takeTrap r st vec s).p = putFlag s.p .i true := by simp [takeTrap]
@[simp] theorem takeTrap_halted : (takeTrap r st vec s).halted = s.halted := by simp [takeTrap]
@[simp] theorem takeTrap_mem :
    (takeTrap r st vec s).mem = (push8 st (push8 (loByte r) (push8 (hiByte r) s))).mem := by simp [takeTrap]

@[simp] theorem takeTrap_flag (f : Flag) :
    (takeTrap r st vec s).flag f = if f = .i then true else s.flag f := by simp [takeTrap]

/-- The saved bytes, in the order of the pushes; every other byte is as it was. -/
@[simp] theorem takeTrap_peek (b : Word) :
    (takeTrap r st vec s).peek b =
      if b = stackAddr (s.sp - 1 - 1) then st
      else if b = stackAddr (s.sp - 1) then loByte r
      else if b = stackAddr s.sp then hiByte r else s.peek b := by
  have : (takeTrap r st vec s).peek b = (push8 st (push8 (loByte r) (push8 (hiByte r) s))).peek b := by simp [takeTrap]
  rw [this]; simp

/-- PC after the entry is what the vector holds once the bytes are saved. -/
@[simp] theorem takeTrap_pc :
    (takeTrap r st vec s).pc =
      word ((takeTrap r st vec s).peek (vec + 1)) ((takeTrap r st vec s).peek vec) := by simp [takeTrap]

@[simp] theorem takeTrap_bus :
    (takeTrap r st vec s).bus =
      .read (vec + 1) ((takeTrap r st vec s).peek (vec + 1)) :: .read vec ((takeTrap r st vec s).peek vec) ::
      .write (stackAddr (s.sp - 1 - 1)) st :: .write (stackAddr (s.sp - 1)) (loByte r) ::
      .write (stackAddr s.sp) (hiByte r) :: s.bus := by simp [takeTrap]

theorem takeTrap_wf (h : s.mem.wf = true) : (takeTrap r st vec s).mem.wf = true := by
  rw [takeTrap_mem]
  exact push8_wf _ _ (push8_wf _ _ (push8_wf _ _ h))
end

section
variable (s : State)

@[simp] theorem returnFromTrap_a : (returnFromTrap s).a = s.a := by simp [returnFromTrap]
@[simp] theorem returnFromTrap_x : (returnFromTrap s).x = s.x := by simp [returnFromTrap]
@[simp] theorem returnFromTrap_y : (returnFromTrap s).y = s.y := by simp [returnFromTrap]
@[simp] theorem returnFromTrap_sp : (returnFromTrap s).sp = s.sp + 1 + 1 + 1 := by simp [returnFromTrap]
@[simp] theorem returnFromTrap_p : (returnFromTrap s).p = pullForm s.p (s.peek (stackAddr (s.sp + 1))) := by simp [returnFromTrap]
@[simp] theorem returnFromTrap_pc :
    (returnFromTrap s).pc =
      word (s.peek (stackAddr (s.sp + 1 + 1 + 1))) (s.peek (stackAddr (s.sp + 1 + 1))) := by simp [returnFromTrap]
@[simp] theorem returnFromTrap_halted : (returnFromTrap s).halted = s.halted := by simp [returnFromTrap]
@[simp] theorem returnFromTrap_mem : (returnFromTrap s).mem = s.mem := by simp [returnFromTrap]
@[simp] theorem returnFromTrap_peek (b : Word) : (returnFromTrap s).peek b = s.peek b := by simp [returnFromTrap]
@[simp] theorem returnFromTrap_flag (f : Flag) :
    (returnFromTrap s).flag f =
      if f = .u ∨ f = .b then s.flag f else getFlag (s.peek (stackAddr (s.sp + 1))) f := by
  simp [returnFromTrap, getFlag_p]
@[simp] theorem returnFromTrap_bus :
    (returnFromTrap s).bus =
      .read (stackAddr (s.sp + 1 + 1 + 1)) (s.peek (stackAddr (s.sp + 1 + 1 + 1))) ::
      .read (stackAddr (s.sp + 1 + 1)) (s.peek (stackAddr (s.sp + 1 + 1))) ::
      .read (stackAddr (s.sp + 1)) (s.peek (stackAddr (s.sp + 1))) :: s.bus := by simp [returnFromTrap]
end

end Sys2Proof.Machine
end

