-- ==== Sys2Proof/Laws/Operands.lean ====
section
/-! SUPPORT. What resolving and accessing an operand can do: the effective address, the value read, the byte written,
and the bus accesses; nothing else changes. -/

namespace Sys2Proof.Machine

/-! ## The addressing-mode routine (`40_tick_and_addressing.md` R105 to R117) -/

/-- Resolving changes the bus record only. -/
theorem resolve_state (o : Operand) (s : State) :
    (resolve o s).2 = { s with bus := (pointerReads o s).reverse ++ s.bus } := by
  cases o <;> simp [resolve, pointerReads, State.noteRead]

section
variable (o : Operand) (s : State)
@[simp] theorem resolve_fst : (resolve o s).1 = effAddr o s := rfl
@[simp] theorem resolve_a : (resolve o s).2.a = s.a := by rw [resolve_state]
@[simp] theorem resolve_x : (resolve o s).2.x = s.x := by rw [resolve_state]
@[simp] theorem resolve_y : (resolve o s).2.y = s.y := by rw [resolve_state]
@[simp] theorem resolve_sp : (resolve o s).2.sp = s.sp := by rw [resolve_state]
@[simp] theorem resolve_p : (resolve o s).2.p = s.p := by rw [resolve_state]
@[simp] theorem resolve_pc : (resolve o s).2.pc = s.pc := by rw [resolve_state]
@[simp] theorem resolve_halted : (resolve o s).2.halted = s.halted := by rw [resolve_state]
@[simp] theorem resolve_mem : (resolve o s).2.mem = s.mem := by rw [resolve_state]
@[simp] theorem resolve_bus : (resolve o s).2.bus = (pointerReads o s).reverse ++ s.bus := by rw [resolve_state]
@[simp] theorem resolve_flag (f : Flag) : (resolve o s).2.flag f = s.flag f := by
  rw [State.flag, resolve_p]; rfl
@[simp] theorem resolve_peek (b : Word) : (resolve o s).2.peek b = s.peek b := by simp [State.peek]
end

@[simp] theorem effAddr_imm (ii : Byte) (s : State) : effAddr (.imm ii) s = s.pc - 1 := rfl
@[simp] theorem effAddr_rel (rr : Byte) (s : State) : effAddr (.rel rr) s = s.pc - 1 := rfl
@[simp] theorem effAddr_zpg (zz : Byte) (s : State) : effAddr (.zpg zz) s = zext16 zz := rfl
@[simp] theorem effAddr_zpgx (zz : Byte) (s : State) : effAddr (.zpgx zz) s = zext16 (zz + s.x) := rfl
@[simp] theorem effAddr_zpgy (zz : Byte) (s : State) : effAddr (.zpgy zz) s = zext16 (zz + s.y) := rfl
@[simp] theorem effAddr_abs (w : Word) (s : State) : effAddr (.abs w) s = w := rfl
@[simp] theorem effAddr_absx (w : Word) (s : State) : effAddr (.absx w) s = w + zext16 s.x := rfl
@[simp] theorem effAddr_absy (w : Word) (s : State) : effAddr (.absy w) s = w + zext16 s.y := rfl
@[simp] theorem effAddr_ind (w : Word) (s : State) :
    effAddr (.ind w) s = word (s.peek (nextInPage w)) (s.peek w) := by simp [effAddr, resolve]
@[simp] theorem effAddr_indx (zz : Byte) (s : State) :
    effAddr (.indx zz) s = word (s.peek (zext16 (zz + s.x + 1))) (s.peek (zext16 (zz + s.x))) := by
  simp [effAddr, resolve]
@[simp] theorem effAddr_indy (zz : Byte) (s : State) :
    effAddr (.indy zz) s = word (s.peek (zext16 (zz + 1))) (s.peek (zext16 zz)) + zext16 s.y := by
  simp [effAddr, resolve]

/-! ## Operand access (R118, R119) -/

@[simp] theorem operandRead_fst (o : Operand) (s : State) :
    (operandRead o (effAddr o s) (resolve o s).2).1 = operandValue o s := by
  cases o <;> simp [operandRead, operandValue]

theorem operandRead_state (o : Operand) (s : State) :
    (operandRead o (effAddr o s) (resolve o s).2).2 =
      { s with bus := (pointerReads o s ++ operandReads o s).reverse ++ s.bus } := by
  cases o <;>
    simp [operandRead, operandReads, operandValue, State.noteRead, resolve_state, pointerReads, State.peek]

/-! ## The shapes of an instruction with an operand -/

/-- The state an instruction that read its operand goes on from. -/
def afterRead (o : Operand) (s : State) : State :=
  { s with bus := (pointerReads o s ++ operandReads o s).reverse ++ s.bus }

theorem readingOperand_eq (o : Operand) (k : Byte → State → State) (s : State) :
    readingOperand o k s = .next (k (operandValue o s) (afterRead o s)) := by
  simp [readingOperand, operandRead_state, afterRead]

theorem writingOperand_eq (o : Operand) (v : Byte) (s : State) :
    writingOperand o v s = .next (operandWrite o (effAddr o s) v (resolve o s).2) := rfl

theorem modifyingOperand_eq (o : Operand) (f : Byte → Byte) (k : Byte → Byte → State → State) (s : State) :
    modifyingOperand o f k s =
      .next (k (operandValue o s) (f (operandValue o s))
        (operandWrite o (effAddr o s) (f (operandValue o s)) (afterRead o s))) := by
  simp [modifyingOperand, operandRead_state, afterRead]

theorem ignoringOperand_eq (o : Operand) (s : State) : ignoringOperand o s = .next (resolve o s).2 := rfl

section
variable (o : Operand) (s : State)
@[simp] theorem afterRead_a : (afterRead o s).a = s.a := rfl
@[simp] theorem afterRead_x : (afterRead o s).x = s.x := rfl
@[simp] theorem afterRead_y : (afterRead o s).y = s.y := rfl
@[simp] theorem afterRead_sp : (afterRead o s).sp = s.sp := rfl
@[simp] theorem afterRead_p : (afterRead o s).p = s.p := rfl
@[simp] theorem afterRead_pc : (afterRead o s).pc = s.pc := rfl
@[simp] theorem afterRead_halted : (afterRead o s).halted = s.halted := rfl
@[simp] theorem afterRead_mem : (afterRead o s).mem = s.mem := rfl
@[simp] theorem afterRead_bus :
    (afterRead o s).bus = (pointerReads o s ++ operandReads o s).reverse ++ s.bus := rfl
@[simp] theorem afterRead_flag (f : Flag) : (afterRead o s).flag f = s.flag f := rfl
@[simp] theorem afterRead_peek (b : Word) : (afterRead o s).peek b = s.peek b := rfl
end

section
variable (o : Operand) (op : Word) (v : Byte) (s : State)
@[simp] theorem operandWrite_acc : operandWrite .acc op v s = s.setA v := rfl
theorem operandWrite_mem (h : o ≠ .acc) : operandWrite o op v s = memWrite op v s := by
  cases o <;> first | rfl | exact absurd rfl h
@[simp] theorem operandWrite_x : (operandWrite o op v s).x = s.x := by cases o <;> rfl
@[simp] theorem operandWrite_y : (operandWrite o op v s).y = s.y := by cases o <;> rfl
@[simp] theorem operandWrite_sp : (operandWrite o op v s).sp = s.sp := by cases o <;> rfl
@[simp] theorem operandWrite_p : (operandWrite o op v s).p = s.p := by cases o <;> rfl
@[simp] theorem operandWrite_pc : (operandWrite o op v s).pc = s.pc := by cases o <;> rfl
@[simp] theorem operandWrite_halted : (operandWrite o op v s).halted = s.halted := by cases o <;> rfl
@[simp] theorem operandWrite_flag (f : Flag) : (operandWrite o op v s).flag f = s.flag f := by cases o <;> rfl
theorem operandWrite_wf (h : s.mem.wf = true) : (operandWrite o op v s).mem.wf = true := by
  cases o <;> first | exact h | exact memWrite_wf s op v h
end

/-- A byte written to the operand of a state whose memory is still as it was is stored to it. -/
theorem operandWrite_storedTo (o : Operand) (v : Byte) (s u : State) (h : BytesKept s u) :
    StoredTo o v s (operandWrite o (effAddr o s) v u) := by
  cases o
  case acc => exact ⟨rfl, h⟩
  all_goals
    rw [operandWrite_mem _ _ _ _ (by simp)]
    refine ⟨by simp, fun b hb => ?_⟩
    rw [memWrite_peek, if_neg (by simpa using hb)]
    exact h b

/-- What a store has stored does not depend on the other registers. -/
theorem StoredTo.of_same {o : Operand} {v : Byte} {s t u : State} (h : StoredTo o v s t)
    (ha : o = .acc → u.a = t.a) (hm : u.mem = t.mem) : StoredTo o v s u := by
  have hp : ∀ b, u.peek b = t.peek b := fun b => by simp [State.peek, hm]
  cases o
  case acc => exact ⟨(ha rfl).trans h.1, fun b => (hp b).trans (h.2 b)⟩
  all_goals exact ⟨(hp _).trans h.1, fun b hb => (hp b).trans (h.2 b hb)⟩

theorem operandWrite_bus (o : Operand) (v : Byte) (s u : State) :
    (operandWrite o (effAddr o s) v u).bus = operandWrites o v s ++ u.bus := by
  cases o <;> rfl

theorem operandWrite_reg (o : Operand) (op : Word) (v : Byte) (s : State) (r : Reg) (h : r ∉ operandReg o) :
    (operandWrite o op v s).reg r = s.reg r := by
  cases o <;> cases r <;> first | rfl | exact absurd h (by simp [operandReg])

/-- A read-modify-write whose last part touches the named registers and flags only. -/
theorem modifiesOperand_of {o : Operand} {v : Byte} {rs : List Reg} {fs : List Flag} {s t : State}
    (hreg : ∀ r, r ∉ rs → t.reg r = (operandWrite o (effAddr o s) v (afterRead o s)).reg r)
    (hflag : ∀ f, f ∉ fs → t.flag f = s.flag f) (hhalted : t.halted = s.halted) (hpc : t.pc = s.pc)
    (hmem : t.mem = (operandWrite o (effAddr o s) v (afterRead o s)).mem)
    (hbus : t.bus = (operandWrite o (effAddr o s) v (afterRead o s)).bus)
    (hacc : o = .acc → t.a = v) (hrs : ∀ r, r ∈ operandReg o → r ∈ rs) : ModifiesOperand o v rs fs s t := by
  refine ⟨(operandWrite_storedTo o v s (afterRead o s) (fun b => by simp)).of_same ?_ hmem, ⟨?_, hflag, hhalted⟩, hpc, ?_⟩
  · intro ha
    subst ha
    exact hacc rfl
  · intro r hr
    rw [hreg r hr, operandWrite_reg _ _ _ _ _ (fun h => hr (hrs r h))]
    cases r <;> rfl
  · rw [Accessed, hbus, operandWrite_bus]
    cases o <;> simp [operandWrites]

end Sys2Proof.Machine
end

