-- ==== Sys2Proof/Laws/Step.lean ====
section
/-! SUPPORT. One step, taken apart: what the fetch leaves, and the two cases of a tick. -/

namespace Sys2Proof.Machine

theorem step_halted (s : State) (h : s.halted = true) : step s = .next s := by simp [step, h]

theorem step_running (s : State) (h : s.halted = false) :
    step s = exec (instrAt s) (fetched (instrAt s).operand.mode s) := by simp [step, h, fetch]

section
variable (m : Mode) (s : State)

/-- Fetching changes PC and the bus record only. -/
theorem fetched_state :
    fetched m s =
      { s with pc := s.pc + 1 + BitVec.ofNat 16 m.operandLength, bus := (fetchReads m s).reverse ++ s.bus } := by
  have h2 : s.pc + 1#16 + 1#16 = s.pc + 2#16 := by rw [BitVec.add_assoc]; rfl
  cases m <;> simp [fetched, readBytes, operandBytesRead, fetchReads, State.noteRead, State.setPc, State.peek, h2]

@[simp] theorem fetched_a : (fetched m s).a = s.a := by rw [fetched_state]
@[simp] theorem fetched_x : (fetched m s).x = s.x := by rw [fetched_state]
@[simp] theorem fetched_y : (fetched m s).y = s.y := by rw [fetched_state]
@[simp] theorem fetched_sp : (fetched m s).sp = s.sp := by rw [fetched_state]
@[simp] theorem fetched_p : (fetched m s).p = s.p := by rw [fetched_state]
@[simp] theorem fetched_pc : (fetched m s).pc = s.pc + 1 + BitVec.ofNat 16 m.operandLength := by
  rw [fetched_state]
@[simp] theorem fetched_halted : (fetched m s).halted = s.halted := by rw [fetched_state]
@[simp] theorem fetched_mem : (fetched m s).mem = s.mem := by rw [fetched_state]
@[simp] theorem fetched_bus : (fetched m s).bus = (fetchReads m s).reverse ++ s.bus := by rw [fetched_state]
@[simp] theorem fetched_flag (f : Flag) : (fetched m s).flag f = s.flag f := by
  rw [State.flag, fetched_p]; rfl
@[simp] theorem fetched_peek (b : Word) : (fetched m s).peek b = s.peek b := by simp [State.peek]
end

end Sys2Proof.Machine
end

