-- ==== Sys2Proof/Laws/Exec.lean ====
section
/-! SUPPORT. How an instruction of each shape completes: the state its meaning ends in, named. -/

namespace Sys2Proof.Machine

theorem completes_of_reads {i : Instr} {s : State} {post : State → Prop} (o : Operand) (k : Byte → State → State)
    (h : exec i s = readingOperand o k s) (hp : post (k (operandValue o s) (afterRead o s))) : Completes i s post :=
  ⟨_, h.trans (readingOperand_eq o k s), hp⟩

theorem completes_of_writes {i : Instr} {s : State} {post : State → Prop} (o : Operand) (v : Byte)
    (h : exec i s = writingOperand o v s) (hp : post (operandWrite o (effAddr o s) v (resolve o s).2)) :
    Completes i s post :=
  ⟨_, h.trans (writingOperand_eq o v s), hp⟩

theorem completes_of_modifies {i : Instr} {s : State} {post : State → Prop} (o : Operand) (f : Byte → Byte)
    (k : Byte → Byte → State → State) (h : exec i s = modifyingOperand o f k s)
    (hp : post (k (operandValue o s) (f (operandValue o s))
      (operandWrite o (effAddr o s) (f (operandValue o s)) (afterRead o s)))) : Completes i s post :=
  ⟨_, h.trans (modifyingOperand_eq o f k s), hp⟩

theorem completes_of_ignores {i : Instr} {s : State} {post : State → Prop} (o : Operand)
    (h : exec i s = ignoringOperand o s) (hp : post (resolve o s).2) : Completes i s post :=
  ⟨_, h.trans (ignoringOperand_eq o s), hp⟩

theorem completes_of_next {i : Instr} {s t : State} {post : State → Prop} (h : exec i s = .next t) (hp : post t) :
    Completes i s post := ⟨t, h, hp⟩

end Sys2Proof.Machine
end

