-- ==== Sys2Proof/Laws/PerInstr.lean ====
section
/-! SUPPORT. Laws of the instructions as syntax, one lemma per constructor. -/

namespace Sys2Proof.Laws.EncodeDefined

/-- An instruction has bytes exactly when it is well formed: the modes of the **Operands** lines are the modes that
have an opcode byte (`30_encoding.md` R86). -/
def Statement (i : Instr) : Prop := (encode i).isSome = i.wf

theorem operandForm (f : Operand → Instr) (h : ∀ o, (opcodeOf (f o)).isSome = (f o).wf) (o : Operand) :
    Statement (f o) := by
  simp [Statement, encode, h]

theorem lda (o : Operand) : Statement (.lda o) := operandForm .lda (fun o => by cases o <;> rfl) o
theorem ldx (o : Operand) : Statement (.ldx o) := operandForm .ldx (fun o => by cases o <;> rfl) o
theorem ldy (o : Operand) : Statement (.ldy o) := operandForm .ldy (fun o => by cases o <;> rfl) o
theorem sta (o : Operand) : Statement (.sta o) := operandForm .sta (fun o => by cases o <;> rfl) o
theorem stx (o : Operand) : Statement (.stx o) := operandForm .stx (fun o => by cases o <;> rfl) o
theorem sty (o : Operand) : Statement (.sty o) := operandForm .sty (fun o => by cases o <;> rfl) o
theorem tax : Statement (.tax) := rfl
theorem tay : Statement (.tay) := rfl
theorem tsx : Statement (.tsx) := rfl
theorem txa : Statement (.txa) := rfl
theorem tya : Statement (.tya) := rfl
theorem txs : Statement (.txs) := rfl
theorem pha : Statement (.pha) := rfl
theorem php : Statement (.php) := rfl
theorem pla : Statement (.pla) := rfl
theorem plp : Statement (.plp) := rfl
theorem adc (o : Operand) : Statement (.adc o) := operandForm .adc (fun o => by cases o <;> rfl) o
theorem sbc (o : Operand) : Statement (.sbc o) := operandForm .sbc (fun o => by cases o <;> rfl) o
theorem cmp (o : Operand) : Statement (.cmp o) := operandForm .cmp (fun o => by cases o <;> rfl) o
theorem cpx (o : Operand) : Statement (.cpx o) := operandForm .cpx (fun o => by cases o <;> rfl) o
theorem cpy (o : Operand) : Statement (.cpy o) := operandForm .cpy (fun o => by cases o <;> rfl) o
theorem and (o : Operand) : Statement (.and o) := operandForm .and (fun o => by cases o <;> rfl) o
theorem ora (o : Operand) : Statement (.ora o) := operandForm .ora (fun o => by cases o <;> rfl) o
theorem eor (o : Operand) : Statement (.eor o) := operandForm .eor (fun o => by cases o <;> rfl) o
theorem bit (o : Operand) : Statement (.bit o) := operandForm .bit (fun o => by cases o <;> rfl) o
theorem asl (o : Operand) : Statement (.asl o) := operandForm .asl (fun o => by cases o <;> rfl) o
theorem lsr (o : Operand) : Statement (.lsr o) := operandForm .lsr (fun o => by cases o <;> rfl) o
theorem rol (o : Operand) : Statement (.rol o) := operandForm .rol (fun o => by cases o <;> rfl) o
theorem ror (o : Operand) : Statement (.ror o) := operandForm .ror (fun o => by cases o <;> rfl) o
theorem inc (o : Operand) : Statement (.inc o) := operandForm .inc (fun o => by cases o <;> rfl) o
theorem dec (o : Operand) : Statement (.dec o) := operandForm .dec (fun o => by cases o <;> rfl) o
theorem inx : Statement (.inx) := rfl
theorem iny : Statement (.iny) := rfl
theorem dex : Statement (.dex) := rfl
theorem dey : Statement (.dey) := rfl
theorem bpl (rr : Byte) : Statement (.bpl rr) := rfl
theorem bmi (rr : Byte) : Statement (.bmi rr) := rfl
theorem bvc (rr : Byte) : Statement (.bvc rr) := rfl
theorem bvs (rr : Byte) : Statement (.bvs rr) := rfl
theorem bcc (rr : Byte) : Statement (.bcc rr) := rfl
theorem bcs (rr : Byte) : Statement (.bcs rr) := rfl
theorem bne (rr : Byte) : Statement (.bne rr) := rfl
theorem beq (rr : Byte) : Statement (.beq rr) := rfl
theorem jmp (o : Operand) : Statement (.jmp o) := operandForm .jmp (fun o => by cases o <;> rfl) o
theorem jsr (hhll : Word) : Statement (.jsr hhll) := rfl
theorem rts : Statement (.rts) := rfl
theorem rti : Statement (.rti) := rfl
theorem clc : Statement (.clc) := rfl
theorem sec : Statement (.sec) := rfl
theorem cli : Statement (.cli) := rfl
theorem sei : Statement (.sei) := rfl
theorem cld : Statement (.cld) := rfl
theorem sed : Statement (.sed) := rfl
theorem clv : Statement (.clv) := rfl
theorem brk : Statement (.brk) := rfl
theorem nop : Statement (.nop) := rfl
theorem jam (k : Fin 12) : Statement (.jam k) := by fin_cases k <;> rfl
theorem nopu (k : Fin 6) (o : Operand) : Statement (.nopu k o) := by
  cases o <;> fin_cases k <;> rfl
theorem lax (o : Operand) : Statement (.lax o) := operandForm .lax (fun o => by cases o <;> rfl) o
theorem sax (o : Operand) : Statement (.sax o) := operandForm .sax (fun o => by cases o <;> rfl) o
theorem dcp (o : Operand) : Statement (.dcp o) := operandForm .dcp (fun o => by cases o <;> rfl) o
theorem isc (o : Operand) : Statement (.isc o) := operandForm .isc (fun o => by cases o <;> rfl) o
theorem slo (o : Operand) : Statement (.slo o) := operandForm .slo (fun o => by cases o <;> rfl) o
theorem rla (o : Operand) : Statement (.rla o) := operandForm .rla (fun o => by cases o <;> rfl) o
theorem sre (o : Operand) : Statement (.sre o) := operandForm .sre (fun o => by cases o <;> rfl) o
theorem rra (o : Operand) : Statement (.rra o) := operandForm .rra (fun o => by cases o <;> rfl) o
theorem alr (ii : Byte) : Statement (.alr ii) := rfl
theorem anc (k : Fin 2) (ii : Byte) : Statement (.anc k ii) := by fin_cases k <;> rfl
theorem arr (ii : Byte) : Statement (.arr ii) := rfl
theorem sbx (ii : Byte) : Statement (.sbx ii) := rfl
theorem usb (ii : Byte) : Statement (.usb ii) := rfl
theorem las (hhll : Word) : Statement (.las hhll) := rfl
theorem ane (ii : Byte) : Statement (.ane ii) := rfl
theorem lxa (ii : Byte) : Statement (.lxa ii) := rfl
theorem sha (o : Operand) : Statement (.sha o) := operandForm .sha (fun o => by cases o <;> rfl) o
theorem shx (hhll : Word) : Statement (.shx hhll) := rfl
theorem shy (hhll : Word) : Statement (.shy hhll) := rfl
theorem tas (hhll : Word) : Statement (.tas hhll) := rfl

end Sys2Proof.Laws.EncodeDefined
end

