-- ==== Sys2Proof/Tests/Slice0.lean ====
section
/-! SUPPORT. Tests of the model: the decoder on words written out from `30_encoding.md` R84 and R86, the checks of WellFormed, one
step of the vectors of `95_test_vectors.md` (their numbers V1 to V236 stand in the names; what they expect is the spec's), the
bus-access traces of its section 4, and for every statement with hypotheses a state and operands that meet them. -/

namespace Sys2Proof.Tests
open Sys2Proof Sys2Proof.Machine

/-- One byte put on the bus. -/
def store (m : Memory) (c : Nat × Byte) : Memory := m.write c.1 c.2

/-- The launch state of `95_test_vectors.md` section 0: a bus holding these bytes (a program at 0x8000), reset() called, and the
record of bus accesses begun anew. -/
def launch (cells : List (Nat × Byte)) : State :=
  { resetInput { State.reset with mem := cells.foldl store [(0xFFFD, 0x80)] } with bus := [] }

/-- `A X Y S P`, `PC` and `halted` of a next state. -/
def registers : Out → Option (List Byte × Word × Bool)
  | .next t => some ([t.a, t.x, t.y, t.sp, t.p], t.pc, t.halted)
  | _ => none

/-- The bus accesses of a next state, in order. -/
def accesses : Out → List BusAccess
  | .next t => t.bus.reverse
  | _ => []

/-- The bus writes of a next state, in order, each with what its address then reads as. -/
def stores : Out → List (Word × Byte)
  | .next t => t.bus.reverse.filterMap fun c =>
      match c with
      | .write a _ => some (a, t.peek a)
      | .read _ _ => none
  | _ => []


/-- What the decoder reads from bytes that are one instruction. -/
def decoded (bytes : List Byte) : Option Instr :=
  match decode bytes with
  | .ok (i, []) => some i
  | _ => none

/-! ## Decoding: the bytes of `30_encoding.md` R86, every instruction once, operand bytes low byte first (R81) -/

theorem test_decode_load_store :
    decoded [0xA9, 0x42] = some (.lda (.imm 0x42)) ∧ decoded [0xB6, 0x10] = some (.ldx (.zpgy 0x10)) ∧
    decoded [0xBC, 0x34, 0x12] = some (.ldy (.absx 0x1234)) ∧ decoded [0x91, 0x20] = some (.sta (.indy 0x20)) ∧
    decoded [0x96, 0xFF] = some (.stx (.zpgy 0xFF)) ∧ decoded [0x8C, 0x00, 0x02] = some (.sty (.abs 0x0200)) := by decide

theorem test_decode_transfer_stack :
    decoded [0xAA] = some .tax ∧ decoded [0xA8] = some .tay ∧ decoded [0xBA] = some .tsx ∧ decoded [0x8A] = some .txa ∧
    decoded [0x98] = some .tya ∧ decoded [0x9A] = some .txs ∧ decoded [0x48] = some .pha ∧ decoded [0x08] = some .php ∧
    decoded [0x68] = some .pla ∧ decoded [0x28] = some .plp := by decide

theorem test_decode_arithmetic :
    decoded [0x69, 0x50] = some (.adc (.imm 0x50)) ∧ decoded [0xE1, 0x20] = some (.sbc (.indx 0x20)) ∧
    decoded [0xD9, 0x00, 0x02] = some (.cmp (.absy 0x0200)) ∧ decoded [0xE4, 0x10] = some (.cpx (.zpg 0x10)) ∧
    decoded [0xC0, 0x04] = some (.cpy (.imm 0x04)) ∧ decoded [0x2D, 0x34, 0x12] = some (.and (.abs 0x1234)) ∧
    decoded [0x01, 0x20] = some (.ora (.indx 0x20)) ∧ decoded [0x55, 0x10] = some (.eor (.zpgx 0x10)) ∧
    decoded [0x24, 0x10] = some (.bit (.zpg 0x10)) := by decide

theorem test_decode_shift_count :
    decoded [0x0A] = some (.asl .acc) ∧ decoded [0x4E, 0x00, 0x02] = some (.lsr (.abs 0x0200)) ∧
    decoded [0x3E, 0x00, 0x02] = some (.rol (.absx 0x0200)) ∧ decoded [0x66, 0x12] = some (.ror (.zpg 0x12)) ∧
    decoded [0xFE, 0x00, 0x02] = some (.inc (.absx 0x0200)) ∧ decoded [0xC6, 0x10] = some (.dec (.zpg 0x10)) ∧
    decoded [0xE8] = some .inx ∧ decoded [0xC8] = some .iny ∧ decoded [0xCA] = some .dex ∧
    decoded [0x88] = some .dey := by decide

theorem test_decode_branch_jump :
    decoded [0x10, 0x05] = some (.bpl 0x05) ∧ decoded [0x30, 0xFE] = some (.bmi 0xFE) ∧
    decoded [0x50, 0x80] = some (.bvc 0x80) ∧ decoded [0x70, 0x7F] = some (.bvs 0x7F) ∧
    decoded [0x90, 0x02] = some (.bcc 0x02) ∧ decoded [0xB0, 0x02] = some (.bcs 0x02) ∧
    decoded [0xD0, 0xFD] = some (.bne 0xFD) ∧ decoded [0xF0, 0x20] = some (.beq 0x20) ∧
    decoded [0x6C, 0xFF, 0x10] = some (.jmp (.ind 0x10FF)) ∧ decoded [0x4C, 0x34, 0x12] = some (.jmp (.abs 0x1234)) ∧
    decoded [0x20, 0x00, 0x90] = some (.jsr 0x9000) ∧ decoded [0x60] = some .rts ∧ decoded [0x40] = some .rti := by decide

theorem test_decode_flag_system :
    decoded [0x18] = some .clc ∧ decoded [0x38] = some .sec ∧ decoded [0x58] = some .cli ∧ decoded [0x78] = some .sei ∧
    decoded [0xD8] = some .cld ∧ decoded [0xF8] = some .sed ∧ decoded [0xB8] = some .clv ∧ decoded [0x00] = some .brk ∧
    decoded [0xEA] = some .nop ∧ decoded [0x02] = some (.jam 0) ∧ decoded [0x92] = some (.jam 8) ∧
    decoded [0xF2] = some (.jam 11) := by decide

theorem test_decode_undocumented :
    decoded [0x1A] = some (.nopu 0 .imp) ∧ decoded [0xFC, 0xFF, 0x12] = some (.nopu 5 (.absx 0x12FF)) ∧
    decoded [0xE2, 0x01] = some (.nopu 4 (.imm 0x01)) ∧ decoded [0xB7, 0x10] = some (.lax (.zpgy 0x10)) ∧
    decoded [0x83, 0x20] = some (.sax (.indx 0x20)) ∧ decoded [0xDB, 0x00, 0x02] = some (.dcp (.absy 0x0200)) ∧
    decoded [0xF3, 0x20] = some (.isc (.indy 0x20)) ∧ decoded [0x0F, 0x34, 0x12] = some (.slo (.abs 0x1234)) ∧
    decoded [0x23, 0x20] = some (.rla (.indx 0x20)) ∧ decoded [0x57, 0x10] = some (.sre (.zpgx 0x10)) ∧
    decoded [0x7F, 0x34, 0x12] = some (.rra (.absx 0x1234)) ∧ decoded [0x4B, 0x03] = some (.alr 0x03) ∧
    decoded [0x0B, 0x80] = some (.anc 0 0x80) ∧ decoded [0x2B, 0x7F] = some (.anc 1 0x7F) ∧
    decoded [0x6B, 0x01] = some (.arr 0x01) ∧ decoded [0xCB, 0x10] = some (.sbx 0x10) ∧
    decoded [0xEB, 0x05] = some (.usb 0x05) ∧ decoded [0xBB, 0x00, 0x02] = some (.las 0x0200) := by decide

theorem test_decode_unstable :
    decoded [0x8B, 0xFF] = some (.ane 0xFF) ∧ decoded [0xAB, 0x55] = some (.lxa 0x55) ∧
    decoded [0x9F, 0x00, 0x02] = some (.sha (.absy 0x0200)) ∧ decoded [0x93, 0x40] = some (.sha (.indy 0x40)) ∧
    decoded [0x9E, 0x00, 0x02] = some (.shx 0x0200) ∧ decoded [0x9C, 0x00, 0x02] = some (.shy 0x0200) ∧
    decoded [0x9B, 0x00, 0x02] = some (.tas 0x0200) := by decide

/-- Missing bytes are refused by name (`30_encoding.md` R88). -/
theorem test_decode_refuses_missing_bytes :
    (match decode [] with | .error e => some e | .ok _ => none) = some .noOpcode ∧
    (match decode [0xA9] with | .error e => some e | .ok _ => none) = some (.truncated 0xA9) ∧
    (match decode [0x20, 0x00] with | .error e => some e | .ok _ => none) = some (.truncated 0x20) := by decide

/-- The opcode byte is the least significant byte of the table's word. -/
theorem test_decode_table_word :
    decodeTableWord 8 0xE8 = some .inx ∧ decodeTableWord 8 0x20 = some (.jsr 0x0000) ∧
    decodeTableWord 24 0x9034AD = some (.lda (.abs 0x9034)) ∧ decodeTableWord 8 0xFFA9 = some (.lda (.imm 0x00)) := by decide

/-! ## WellFormed: each check refuses a mode that the instruction does not have (`30_encoding.md` R86) -/

theorem test_wf_refuses_load_store :
    (Instr.lda (.zpgy 0x10)).wf = false ∧ (Instr.ldx (.zpgx 0x10)).wf = false ∧ (Instr.ldy (.absy 0x1234)).wf = false ∧
    (Instr.sta (.imm 0x10)).wf = false ∧ (Instr.stx (.absy 0x1234)).wf = false ∧
    (Instr.sty (.absx 0x1234)).wf = false := by decide

theorem test_wf_refuses_arithmetic :
    (Instr.adc .acc).wf = false ∧ (Instr.sbc (.ind 0x1234)).wf = false ∧ (Instr.cmp .imp).wf = false ∧
    (Instr.and (.rel 0x10)).wf = false ∧ (Instr.ora (.zpgy 0x10)).wf = false ∧ (Instr.eor .acc).wf = false ∧
    (Instr.cpx (.zpgx 0x10)).wf = false ∧ (Instr.cpy (.absx 0x1234)).wf = false ∧ (Instr.bit (.imm 0x10)).wf = false := by
  decide

theorem test_wf_refuses_shift_count_jump :
    (Instr.asl (.absy 0x1234)).wf = false ∧ (Instr.lsr (.imm 0x10)).wf = false ∧ (Instr.rol (.indy 0x10)).wf = false ∧
    (Instr.ror .imp).wf = false ∧ (Instr.inc .acc).wf = false ∧ (Instr.dec (.absy 0x1234)).wf = false ∧
    (Instr.jmp (.absx 0x1234)).wf = false := by decide

theorem test_wf_refuses_undocumented :
    (Instr.nopu 1 (.abs 0x1234)).wf = false ∧ (Instr.nopu 5 (.imm 0x10)).wf = false ∧ (Instr.nopu 0 .acc).wf = false ∧
    (Instr.lax (.imm 0x10)).wf = false ∧ (Instr.sax (.absy 0x1234)).wf = false ∧ (Instr.dcp (.zpgy 0x10)).wf = false ∧
    (Instr.isc .acc).wf = false ∧ (Instr.slo (.imm 0x10)).wf = false ∧ (Instr.rla .acc).wf = false ∧
    (Instr.sre (.ind 0x1234)).wf = false ∧ (Instr.rra .imp).wf = false ∧ (Instr.sha (.absx 0x1234)).wf = false := by decide

/-! ## Memory and reset -/

theorem test_memory_form :
    Memory.write [(0x10, 0x55)] 0x10 0x00 = [] ∧ Memory.write [(0x10, 0x55), (0x30, 0x01)] 0x20 0x02 =
      [(0x10, 0x55), (0x20, 0x02), (0x30, 0x01)] ∧
    Memory.wf [(0x10, 0x55), (0x20, 0x02)] = true ∧ Memory.wf [(0x20, 0x02), (0x10, 0x55)] = false ∧
    Memory.wf [(0x10, 0x00)] = false ∧ Memory.wf [(0x10000, 0x55)] = false := by decide

/-- `10_state.md` R37; PC is what the two vector bytes hold, 0x0000 on a bus that lists nothing (log entry 1). -/
theorem test_reset_state :
    registers (.next State.reset) = some ([0x00, 0x00, 0x00, 0x00, 0x00], 0x0000, false) ∧ State.reset.mem = [] := by decide

/-! ## One step from the launch state -/

-- `LDA ($FF),Y`, R140
theorem test_v14_lda :
    registers (step { launch [(0x0000, 0x40), (0x00FF, 0xFF), (0x0100, 0x99), (0x4100, 0x6B), (0x8000, 0xB1), (0x8001, 0xFF)] with y := 0x01 }) = some ([0x6B, 0x00, 0x01, 0x00, 0x00], 0x8002, false) ∧
    stores (step { launch [(0x0000, 0x40), (0x00FF, 0xFF), (0x0100, 0x99), (0x4100, 0x6B), (0x8000, 0xB1), (0x8001, 0xFF)] with y := 0x01 }) = [] := by decide

-- `LDA #$7F`, R140
theorem test_v18_lda :
    registers (step { launch [(0x8000, 0xA9), (0x8001, 0x7F)] with p := 0xC3 }) = some ([0x7F, 0x00, 0x00, 0x00, 0x41], 0x8002, false) ∧
    stores (step { launch [(0x8000, 0xA9), (0x8001, 0x7F)] with p := 0xC3 }) = [] := by decide

-- `LDX $F0,Y`, R141
theorem test_v5_ldx :
    registers (step { launch [(0x0010, 0x11), (0x0110, 0x99), (0x8000, 0xB6), (0x8001, 0xF0)] with y := 0x20 }) = some ([0x00, 0x11, 0x20, 0x00, 0x00], 0x8002, false) ∧
    stores (step { launch [(0x0010, 0x11), (0x0110, 0x99), (0x8000, 0xB6), (0x8001, 0xF0)] with y := 0x20 }) = [] := by decide

-- `LDY $10,X`, R142
theorem test_v23_ldy :
    registers (step { launch [(0x0011, 0x01), (0x8000, 0xB4), (0x8001, 0x10)] with x := 0x01 }) = some ([0x00, 0x01, 0x01, 0x00, 0x00], 0x8002, false) ∧
    stores (step { launch [(0x0011, 0x01), (0x8000, 0xB4), (0x8001, 0x10)] with x := 0x01 }) = [] := by decide

-- `STA ($20),Y`, R143
theorem test_v29_sta :
    registers (step { launch [(0x0020, 0xFF), (0x0021, 0x02), (0x8000, 0x91), (0x8001, 0x20)] with a := 0x96, y := 0x01 }) = some ([0x96, 0x00, 0x01, 0x00, 0x00], 0x8002, false) ∧
    stores (step { launch [(0x0020, 0xFF), (0x0021, 0x02), (0x8000, 0x91), (0x8001, 0x20)] with a := 0x96, y := 0x01 }) = [(0x0300, 0x96)] := by decide

-- `STX $FF,Y`, R144
theorem test_v31_stx :
    registers (step { launch [(0x8000, 0x96), (0x8001, 0xFF)] with x := 0x41, y := 0x02 }) = some ([0x00, 0x41, 0x02, 0x00, 0x00], 0x8002, false) ∧
    stores (step { launch [(0x8000, 0x96), (0x8001, 0xFF)] with x := 0x41, y := 0x02 }) = [(0x0001, 0x41)] := by decide

-- `STY $10`, R145
theorem test_v33_sty :
    registers (step { launch [(0x8000, 0x84), (0x8001, 0x10)] with y := 0x80 }) = some ([0x00, 0x00, 0x80, 0x00, 0x00], 0x8002, false) ∧
    stores (step { launch [(0x8000, 0x84), (0x8001, 0x10)] with y := 0x80 }) = [(0x0010, 0x80)] := by decide

-- `TAX`, R146
theorem test_v36_tax :
    registers (step { launch [(0x8000, 0xAA)] with a := 0x80 }) = some ([0x80, 0x80, 0x00, 0x00, 0x80], 0x8001, false) ∧
    stores (step { launch [(0x8000, 0xAA)] with a := 0x80 }) = [] := by decide

-- `TAY`, R147
theorem test_v37_tay :
    registers (step { launch [(0x8000, 0xA8)] with a := 0x00, y := 0x05 }) = some ([0x00, 0x00, 0x00, 0x00, 0x02], 0x8001, false) ∧
    stores (step { launch [(0x8000, 0xA8)] with a := 0x00, y := 0x05 }) = [] := by decide

-- `TSX`, R148
theorem test_v39_tsx :
    registers (step { launch [(0x8000, 0xBA)] with x := 0x33 }) = some ([0x00, 0x00, 0x00, 0x00, 0x02], 0x8001, false) ∧
    stores (step { launch [(0x8000, 0xBA)] with x := 0x33 }) = [] := by decide

-- `TXA`, R149
theorem test_v40_txa :
    registers (step { launch [(0x8000, 0x8A)] with a := 0x80, x := 0x7F }) = some ([0x7F, 0x7F, 0x00, 0x00, 0x00], 0x8001, false) ∧
    stores (step { launch [(0x8000, 0x8A)] with a := 0x80, x := 0x7F }) = [] := by decide

-- `TYA`, R150
theorem test_v41_tya :
    registers (step { launch [(0x8000, 0x98)] with y := 0xFF }) = some ([0xFF, 0x00, 0xFF, 0x00, 0x80], 0x8001, false) ∧
    stores (step { launch [(0x8000, 0x98)] with y := 0xFF }) = [] := by decide

-- `TXS`, R151
theorem test_v42_txs :
    registers (step { launch [(0x8000, 0x9A)] with x := 0xFF }) = some ([0x00, 0xFF, 0x00, 0xFF, 0x00], 0x8001, false) ∧
    stores (step { launch [(0x8000, 0x9A)] with x := 0xFF }) = [] := by decide

-- `PHA`, R152
theorem test_v45_pha :
    registers (step { launch [(0x8000, 0x48)] with a := 0x43 }) = some ([0x43, 0x00, 0x00, 0xFF, 0x00], 0x8001, false) ∧
    stores (step { launch [(0x8000, 0x48)] with a := 0x43 }) = [(0x0100, 0x43)] := by decide

-- `PHP`, R153
theorem test_v46_php :
    registers (step { launch [(0x8000, 0x08)] with sp := 0xFD, p := 0xCF }) = some ([0x00, 0x00, 0x00, 0xFC, 0xCF], 0x8001, false) ∧
    stores (step { launch [(0x8000, 0x08)] with sp := 0xFD, p := 0xCF }) = [(0x01FD, 0xFF)] := by decide

-- `PLA`, R154
theorem test_v49_pla :
    registers (step { launch [(0x0100, 0x00), (0x0200, 0x99), (0x8000, 0x68)] with a := 0x11, sp := 0xFF }) = some ([0x00, 0x00, 0x00, 0x00, 0x02], 0x8001, false) ∧
    stores (step { launch [(0x0100, 0x00), (0x0200, 0x99), (0x8000, 0x68)] with a := 0x11, sp := 0xFF }) = [] := by decide

-- `PLP`, R155
theorem test_v51_plp :
    registers (step { launch [(0x01FD, 0x30), (0x8000, 0x28)] with sp := 0xFC, p := 0xCF }) = some ([0x00, 0x00, 0x00, 0xFD, 0x00], 0x8001, false) ∧
    stores (step { launch [(0x01FD, 0x30), (0x8000, 0x28)] with sp := 0xFC, p := 0xCF }) = [] := by decide

-- `PLP`, R155
theorem test_v52_plp :
    registers (step { launch [(0x01FD, 0x00), (0x8000, 0x28)] with sp := 0xFC, p := 0x30 }) = some ([0x00, 0x00, 0x00, 0xFD, 0x30], 0x8001, false) ∧
    stores (step { launch [(0x01FD, 0x00), (0x8000, 0x28)] with sp := 0xFC, p := 0x30 }) = [] := by decide

-- `ADC #$00`, R170
theorem test_v55_adc :
    registers (step { launch [(0x8000, 0x69), (0x8001, 0x00)] with a := 0x7F, p := 0x01 }) = some ([0x80, 0x00, 0x00, 0x00, 0xC0], 0x8002, false) ∧
    stores (step { launch [(0x8000, 0x69), (0x8001, 0x00)] with a := 0x7F, p := 0x01 }) = [] := by decide

-- `ADC #$01`, R170
theorem test_v59_adc :
    registers (step { launch [(0x8000, 0x69), (0x8001, 0x01)] with a := 0x09, p := 0x08 }) = some ([0x0A, 0x00, 0x00, 0x00, 0x08], 0x8002, false) ∧
    stores (step { launch [(0x8000, 0x69), (0x8001, 0x01)] with a := 0x09, p := 0x08 }) = [] := by decide

-- `SBC #$01`, R171
theorem test_v66_sbc :
    registers (step { launch [(0x8000, 0xE9), (0x8001, 0x01)] with a := 0x80, p := 0x01 }) = some ([0x7F, 0x00, 0x00, 0x00, 0x41], 0x8002, false) ∧
    stores (step { launch [(0x8000, 0xE9), (0x8001, 0x01)] with a := 0x80, p := 0x01 }) = [] := by decide

-- `SBC #$00`, R171
theorem test_v67_sbc :
    registers (step { launch [(0x8000, 0xE9), (0x8001, 0x00)] with a := 0x00, p := 0x00 }) = some ([0xFF, 0x00, 0x00, 0x00, 0x80], 0x8002, false) ∧
    stores (step { launch [(0x8000, 0xE9), (0x8001, 0x00)] with a := 0x00, p := 0x00 }) = [] := by decide

-- `CMP #$01`, R172
theorem test_v74_cmp :
    registers (step { launch [(0x8000, 0xC9), (0x8001, 0x01)] with a := 0x80, p := 0x40 }) = some ([0x80, 0x00, 0x00, 0x00, 0x41], 0x8002, false) ∧
    stores (step { launch [(0x8000, 0xC9), (0x8001, 0x01)] with a := 0x80, p := 0x40 }) = [] := by decide

-- `CMP #$00`, R172
theorem test_v76_cmp :
    registers (step { launch [(0x8000, 0xC9), (0x8001, 0x00)] with a := 0xFF }) = some ([0xFF, 0x00, 0x00, 0x00, 0x81], 0x8002, false) ∧
    stores (step { launch [(0x8000, 0xC9), (0x8001, 0x00)] with a := 0xFF }) = [] := by decide

-- `CPX $0200`, R173
theorem test_v80_cpx :
    registers (step { launch [(0x0200, 0x7F), (0x8000, 0xEC), (0x8001, 0x00), (0x8002, 0x02)] with x := 0x80 }) = some ([0x00, 0x80, 0x00, 0x00, 0x01], 0x8003, false) ∧
    stores (step { launch [(0x0200, 0x7F), (0x8000, 0xEC), (0x8001, 0x00), (0x8002, 0x02)] with x := 0x80 }) = [] := by decide

-- `CPY #$04`, R174
theorem test_v81_cpy :
    registers (step { launch [(0x8000, 0xC0), (0x8001, 0x04)] with y := 0x03 }) = some ([0x00, 0x00, 0x03, 0x00, 0x80], 0x8002, false) ∧
    stores (step { launch [(0x8000, 0xC0), (0x8001, 0x04)] with y := 0x03 }) = [] := by decide

-- `AND #$F0`, R175
theorem test_v85_and :
    registers (step { launch [(0x8000, 0x29), (0x8001, 0xF0)] with a := 0x8F }) = some ([0x80, 0x00, 0x00, 0x00, 0x80], 0x8002, false) ∧
    stores (step { launch [(0x8000, 0x29), (0x8001, 0xF0)] with a := 0x8F }) = [] := by decide

-- `ORA ($20,X)`, R176
theorem test_v89_ora :
    registers (step { launch [(0x0020, 0x00), (0x0021, 0x02), (0x0200, 0xF0), (0x8000, 0x01), (0x8001, 0x20)] with a := 0x0F, x := 0x00 }) = some ([0xFF, 0x00, 0x00, 0x00, 0x80], 0x8002, false) ∧
    stores (step { launch [(0x0020, 0x00), (0x0021, 0x02), (0x0200, 0xF0), (0x8000, 0x01), (0x8001, 0x20)] with a := 0x0F, x := 0x00 }) = [] := by decide

-- `EOR $10,X`, R177
theorem test_v92_eor :
    registers (step { launch [(0x0011, 0x0F), (0x8000, 0x55), (0x8001, 0x10)] with a := 0x55, x := 0x01 }) = some ([0x5A, 0x01, 0x00, 0x00, 0x00], 0x8002, false) ∧
    stores (step { launch [(0x0011, 0x0F), (0x8000, 0x55), (0x8001, 0x10)] with a := 0x55, x := 0x01 }) = [] := by decide

-- `BIT $10`, R178
theorem test_v93_bit :
    registers (step { launch [(0x0010, 0xC0), (0x8000, 0x24), (0x8001, 0x10)] with a := 0x01 }) = some ([0x01, 0x00, 0x00, 0x00, 0xC2], 0x8002, false) ∧
    stores (step { launch [(0x0010, 0xC0), (0x8000, 0x24), (0x8001, 0x10)] with a := 0x01 }) = [] := by decide

-- `ASL A`, R190
theorem test_v99_asl :
    registers (step { launch [(0x8000, 0x0A)] with a := 0x40, p := 0x01 }) = some ([0x80, 0x00, 0x00, 0x00, 0x80], 0x8001, false) ∧
    stores (step { launch [(0x8000, 0x0A)] with a := 0x40, p := 0x01 }) = [] := by decide

-- `ASL $0200,X`, R190
theorem test_v100_asl :
    registers (step { launch [(0x0201, 0x01), (0x8000, 0x1E), (0x8001, 0x00), (0x8002, 0x02)] with x := 0x01 }) = some ([0x00, 0x01, 0x00, 0x00, 0x00], 0x8003, false) ∧
    stores (step { launch [(0x0201, 0x01), (0x8000, 0x1E), (0x8001, 0x00), (0x8002, 0x02)] with x := 0x01 }) = [(0x0201, 0x02)] := by decide

-- `LSR $10`, R191
theorem test_v102_lsr :
    registers (step (launch [(0x0010, 0x03), (0x8000, 0x46), (0x8001, 0x10)])) = some ([0x00, 0x00, 0x00, 0x00, 0x01], 0x8002, false) ∧
    stores (step (launch [(0x0010, 0x03), (0x8000, 0x46), (0x8001, 0x10)])) = [(0x0010, 0x01)] := by decide

-- `LSR A`, R191
theorem test_v103_lsr :
    registers (step { launch [(0x8000, 0x4A)] with a := 0x80, p := 0x81 }) = some ([0x40, 0x00, 0x00, 0x00, 0x00], 0x8001, false) ∧
    stores (step { launch [(0x8000, 0x4A)] with a := 0x80, p := 0x81 }) = [] := by decide

-- `ROL A`, R192
theorem test_v105_rol :
    registers (step { launch [(0x8000, 0x2A)] with a := 0x40, p := 0x01 }) = some ([0x81, 0x00, 0x00, 0x00, 0x80], 0x8001, false) ∧
    stores (step { launch [(0x8000, 0x2A)] with a := 0x40, p := 0x01 }) = [] := by decide

-- `ROL $10`, R192
theorem test_v106_rol :
    registers (step (launch [(0x0010, 0x80), (0x8000, 0x26), (0x8001, 0x10)])) = some ([0x00, 0x00, 0x00, 0x00, 0x03], 0x8002, false) ∧
    stores (step (launch [(0x0010, 0x80), (0x8000, 0x26), (0x8001, 0x10)])) = [(0x0010, 0x00)] := by decide

-- `ROR A`, R193
theorem test_v109_ror :
    registers (step { launch [(0x8000, 0x6A)] with a := 0x81 }) = some ([0x40, 0x00, 0x00, 0x00, 0x01], 0x8001, false) ∧
    stores (step { launch [(0x8000, 0x6A)] with a := 0x81 }) = [] := by decide

-- `ROR $10`, R193
theorem test_v110_ror :
    registers (step { launch [(0x0010, 0x00), (0x8000, 0x66), (0x8001, 0x10)] with p := 0x01 }) = some ([0x00, 0x00, 0x00, 0x00, 0x80], 0x8002, false) ∧
    stores (step { launch [(0x0010, 0x00), (0x8000, 0x66), (0x8001, 0x10)] with p := 0x01 }) = [(0x0010, 0x80)] := by decide

-- `INC $10`, R194
theorem test_v113_inc :
    registers (step { launch [(0x0010, 0xFF), (0x8000, 0xE6), (0x8001, 0x10)] with p := 0x01 }) = some ([0x00, 0x00, 0x00, 0x00, 0x03], 0x8002, false) ∧
    stores (step { launch [(0x0010, 0xFF), (0x8000, 0xE6), (0x8001, 0x10)] with p := 0x01 }) = [(0x0010, 0x00)] := by decide

-- `DEC $10`, R195
theorem test_v117_dec :
    registers (step (launch [(0x0010, 0x00), (0x8000, 0xC6), (0x8001, 0x10)])) = some ([0x00, 0x00, 0x00, 0x00, 0x80], 0x8002, false) ∧
    stores (step (launch [(0x0010, 0x00), (0x8000, 0xC6), (0x8001, 0x10)])) = [(0x0010, 0xFF)] := by decide

-- `INX`, R196
theorem test_v122_inx :
    registers (step { launch [(0x8000, 0xE8)] with x := 0xFF, p := 0x01 }) = some ([0x00, 0x00, 0x00, 0x00, 0x03], 0x8001, false) ∧
    stores (step { launch [(0x8000, 0xE8)] with x := 0xFF, p := 0x01 }) = [] := by decide

-- `INY`, R197
theorem test_v125_iny :
    registers (step { launch [(0x8000, 0xC8)] with y := 0xFF }) = some ([0x00, 0x00, 0x00, 0x00, 0x02], 0x8001, false) ∧
    stores (step { launch [(0x8000, 0xC8)] with y := 0xFF }) = [] := by decide

-- `DEX`, R198
theorem test_v126_dex :
    registers (step { launch [(0x8000, 0xCA)] with x := 0x00 }) = some ([0x00, 0xFF, 0x00, 0x00, 0x80], 0x8001, false) ∧
    stores (step { launch [(0x8000, 0xCA)] with x := 0x00 }) = [] := by decide

-- `DEY`, R199
theorem test_v128_dey :
    registers (step { launch [(0x8000, 0x88)] with y := 0x80 }) = some ([0x00, 0x00, 0x7F, 0x00, 0x00], 0x8001, false) ∧
    stores (step { launch [(0x8000, 0x88)] with y := 0x80 }) = [] := by decide

-- `BPL $8007`, R211
theorem test_v130_bpl :
    registers (step (launch [(0x8000, 0x10), (0x8001, 0x05)])) = some ([0x00, 0x00, 0x00, 0x00, 0x00], 0x8007, false) ∧
    stores (step (launch [(0x8000, 0x10), (0x8001, 0x05)])) = [] := by decide

-- `BPL $8007`, R211
theorem test_v131_bpl :
    registers (step { launch [(0x8000, 0x10), (0x8001, 0x05)] with p := 0x80 }) = some ([0x00, 0x00, 0x00, 0x00, 0x80], 0x8002, false) ∧
    stores (step { launch [(0x8000, 0x10), (0x8001, 0x05)] with p := 0x80 }) = [] := by decide

-- `BMI $8000`, R212
theorem test_v132_bmi :
    registers (step { launch [(0x8000, 0x30), (0x8001, 0xFE)] with p := 0x80 }) = some ([0x00, 0x00, 0x00, 0x00, 0x80], 0x8000, false) ∧
    stores (step { launch [(0x8000, 0x30), (0x8001, 0xFE)] with p := 0x80 }) = [] := by decide

-- `BMI $8000`, R212
theorem test_v133_bmi :
    registers (step (launch [(0x8000, 0x30), (0x8001, 0xFE)])) = some ([0x00, 0x00, 0x00, 0x00, 0x00], 0x8002, false) ∧
    stores (step (launch [(0x8000, 0x30), (0x8001, 0xFE)])) = [] := by decide

-- `BVC $7F82`, R213
theorem test_v134_bvc :
    registers (step (launch [(0x8000, 0x50), (0x8001, 0x80)])) = some ([0x00, 0x00, 0x00, 0x00, 0x00], 0x7F82, false) ∧
    stores (step (launch [(0x8000, 0x50), (0x8001, 0x80)])) = [] := by decide

-- `BVC $7F82`, R213
theorem test_v135_bvc :
    registers (step { launch [(0x8000, 0x50), (0x8001, 0x80)] with p := 0x40 }) = some ([0x00, 0x00, 0x00, 0x00, 0x40], 0x8002, false) ∧
    stores (step { launch [(0x8000, 0x50), (0x8001, 0x80)] with p := 0x40 }) = [] := by decide

-- `BVS $8081`, R214
theorem test_v136_bvs :
    registers (step { launch [(0x8000, 0x70), (0x8001, 0x7F)] with p := 0x40 }) = some ([0x00, 0x00, 0x00, 0x00, 0x40], 0x8081, false) ∧
    stores (step { launch [(0x8000, 0x70), (0x8001, 0x7F)] with p := 0x40 }) = [] := by decide

-- `BVS $8081`, R214
theorem test_v137_bvs :
    registers (step (launch [(0x8000, 0x70), (0x8001, 0x7F)])) = some ([0x00, 0x00, 0x00, 0x00, 0x00], 0x8002, false) ∧
    stores (step (launch [(0x8000, 0x70), (0x8001, 0x7F)])) = [] := by decide

-- `BCC $8004`, R215
theorem test_v138_bcc :
    registers (step (launch [(0x8000, 0x90), (0x8001, 0x02)])) = some ([0x00, 0x00, 0x00, 0x00, 0x00], 0x8004, false) ∧
    stores (step (launch [(0x8000, 0x90), (0x8001, 0x02)])) = [] := by decide

-- `BCC $8004`, R215
theorem test_v139_bcc :
    registers (step { launch [(0x8000, 0x90), (0x8001, 0x02)] with p := 0x01 }) = some ([0x00, 0x00, 0x00, 0x00, 0x01], 0x8002, false) ∧
    stores (step { launch [(0x8000, 0x90), (0x8001, 0x02)] with p := 0x01 }) = [] := by decide

-- `BCS $8004`, R216
theorem test_v140_bcs :
    registers (step { launch [(0x8000, 0xB0), (0x8001, 0x02)] with p := 0x01 }) = some ([0x00, 0x00, 0x00, 0x00, 0x01], 0x8004, false) ∧
    stores (step { launch [(0x8000, 0xB0), (0x8001, 0x02)] with p := 0x01 }) = [] := by decide

-- `BCS $8004`, R216
theorem test_v141_bcs :
    registers (step (launch [(0x8000, 0xB0), (0x8001, 0x02)])) = some ([0x00, 0x00, 0x00, 0x00, 0x00], 0x8002, false) ∧
    stores (step (launch [(0x8000, 0xB0), (0x8001, 0x02)])) = [] := by decide

-- `BNE $7FFF`, R217
theorem test_v143_bne :
    registers (step { launch [(0x8000, 0xD0), (0x8001, 0xFD)] with p := 0x02 }) = some ([0x00, 0x00, 0x00, 0x00, 0x02], 0x8002, false) ∧
    stores (step { launch [(0x8000, 0xD0), (0x8001, 0xFD)] with p := 0x02 }) = [] := by decide

-- `BNE $FF92`, R217
theorem test_v146_bne :
    registers (step (launch [(0x0010, 0xD0), (0x0011, 0x80), (0xFFFC, 0x10), (0xFFFD, 0x00)])) = some ([0x00, 0x00, 0x00, 0x00, 0x00], 0xFF92, false) ∧
    stores (step (launch [(0x0010, 0xD0), (0x0011, 0x80), (0xFFFC, 0x10), (0xFFFD, 0x00)])) = [] := by decide

-- `BEQ $8002`, R218
theorem test_v144_beq :
    registers (step { launch [(0x8000, 0xF0), (0x8001, 0x00)] with p := 0x02 }) = some ([0x00, 0x00, 0x00, 0x00, 0x02], 0x8002, false) ∧
    stores (step { launch [(0x8000, 0xF0), (0x8001, 0x00)] with p := 0x02 }) = [] := by decide

-- `BEQ $0012`, R218
theorem test_v145_beq :
    registers (step { launch [(0xFFF0, 0xF0), (0xFFF1, 0x20), (0xFFFC, 0xF0), (0xFFFD, 0xFF)] with p := 0x02 }) = some ([0x00, 0x00, 0x00, 0x00, 0x02], 0x0012, false) ∧
    stores (step { launch [(0xFFF0, 0xF0), (0xFFF1, 0x20), (0xFFFC, 0xF0), (0xFFFD, 0xFF)] with p := 0x02 }) = [] := by decide

-- `JMP $1234`, R219
theorem test_v147_jmp :
    registers (step (launch [(0x8000, 0x4C), (0x8001, 0x34), (0x8002, 0x12)])) = some ([0x00, 0x00, 0x00, 0x00, 0x00], 0x1234, false) ∧
    stores (step (launch [(0x8000, 0x4C), (0x8001, 0x34), (0x8002, 0x12)])) = [] := by decide

-- `JMP ($10FF)`, R219
theorem test_v150_jmp :
    registers (step (launch [(0x1000, 0x12), (0x10FF, 0x34), (0x1100, 0x99), (0x8000, 0x6C), (0x8001, 0xFF), (0x8002, 0x10)])) = some ([0x00, 0x00, 0x00, 0x00, 0x00], 0x1234, false) ∧
    stores (step (launch [(0x1000, 0x12), (0x10FF, 0x34), (0x1100, 0x99), (0x8000, 0x6C), (0x8001, 0xFF), (0x8002, 0x10)])) = [] := by decide

-- `JSR $9000`, R220
theorem test_v152_jsr :
    registers (step (launch [(0x8000, 0x20), (0x8001, 0x00), (0x8002, 0x90)])) = some ([0x00, 0x00, 0x00, 0xFE, 0x00], 0x9000, false) ∧
    stores (step (launch [(0x8000, 0x20), (0x8001, 0x00), (0x8002, 0x90)])) = [(0x0100, 0x80), (0x01FF, 0x02)] := by decide

-- `RTS`, R221
theorem test_v155_rts :
    registers (step { launch [(0x01FC, 0xFF), (0x01FD, 0xFF), (0x8000, 0x60)] with sp := 0xFB }) = some ([0x00, 0x00, 0x00, 0xFD, 0x00], 0x0000, false) ∧
    stores (step { launch [(0x01FC, 0xFF), (0x01FD, 0xFF), (0x8000, 0x60)] with sp := 0xFB }) = [] := by decide

-- `RTS`, R221
theorem test_v157_rts :
    registers (step { launch [(0x0100, 0x33), (0x0101, 0x22), (0x8000, 0x60)] with sp := 0xFF }) = some ([0x00, 0x00, 0x00, 0x01, 0x00], 0x2234, false) ∧
    stores (step { launch [(0x0100, 0x33), (0x0101, 0x22), (0x8000, 0x60)] with sp := 0xFF }) = [] := by decide

-- `RTI`, R222
theorem test_v158_rti :
    registers (step { launch [(0x01FB, 0xF3), (0x01FC, 0x02), (0x01FD, 0x80), (0x8000, 0x40)] with sp := 0xFA, p := 0x04 }) = some ([0x00, 0x00, 0x00, 0xFD, 0xC3], 0x8002, false) ∧
    stores (step { launch [(0x01FB, 0xF3), (0x01FC, 0x02), (0x01FD, 0x80), (0x8000, 0x40)] with sp := 0xFA, p := 0x04 }) = [] := by decide

-- `CLC`, R230
theorem test_v160_clc :
    registers (step { launch [(0x8000, 0x18)] with p := 0xC3 }) = some ([0x00, 0x00, 0x00, 0x00, 0xC2], 0x8001, false) ∧
    stores (step { launch [(0x8000, 0x18)] with p := 0xC3 }) = [] := by decide

-- `SEC`, R231
theorem test_v161_sec :
    registers (step (launch [(0x8000, 0x38)])) = some ([0x00, 0x00, 0x00, 0x00, 0x01], 0x8001, false) ∧
    stores (step (launch [(0x8000, 0x38)])) = [] := by decide

-- `CLI`, R232
theorem test_v162_cli :
    registers (step { launch [(0x8000, 0x58)] with p := 0x04 }) = some ([0x00, 0x00, 0x00, 0x00, 0x00], 0x8001, false) ∧
    stores (step { launch [(0x8000, 0x58)] with p := 0x04 }) = [] := by decide

-- `SEI`, R233
theorem test_v163_sei :
    registers (step (launch [(0x8000, 0x78)])) = some ([0x00, 0x00, 0x00, 0x00, 0x04], 0x8001, false) ∧
    stores (step (launch [(0x8000, 0x78)])) = [] := by decide

-- `CLD`, R234
theorem test_v164_cld :
    registers (step { launch [(0x8000, 0xD8)] with p := 0x08 }) = some ([0x00, 0x00, 0x00, 0x00, 0x00], 0x8001, false) ∧
    stores (step { launch [(0x8000, 0xD8)] with p := 0x08 }) = [] := by decide

-- `SED`, R235
theorem test_v165_sed :
    registers (step (launch [(0x8000, 0xF8)])) = some ([0x00, 0x00, 0x00, 0x00, 0x08], 0x8001, false) ∧
    stores (step (launch [(0x8000, 0xF8)])) = [] := by decide

-- `CLV`, R236
theorem test_v167_clv :
    registers (step { launch [(0x8000, 0xB8)] with p := 0xCF }) = some ([0x00, 0x00, 0x00, 0x00, 0x8F], 0x8001, false) ∧
    stores (step { launch [(0x8000, 0xB8)] with p := 0xCF }) = [] := by decide

-- `BRK`, R237
theorem test_v168_brk :
    registers (step { launch [(0x8000, 0x00), (0x8001, 0xEA), (0xFFFE, 0x00), (0xFFFF, 0xC0)] with sp := 0xFD, p := 0x01 }) = some ([0x00, 0x00, 0x00, 0xFA, 0x05], 0xC000, false) ∧
    stores (step { launch [(0x8000, 0x00), (0x8001, 0xEA), (0xFFFE, 0x00), (0xFFFF, 0xC0)] with sp := 0xFD, p := 0x01 }) = [(0x01FD, 0x80), (0x01FC, 0x02), (0x01FB, 0x31)] := by decide

-- `BRK`, R237
theorem test_v169_brk :
    registers (step { launch [(0x8000, 0x00), (0xFFFE, 0x34), (0xFFFF, 0x12)] with p := 0xCF }) = some ([0x00, 0x00, 0x00, 0xFD, 0xCF], 0x1234, false) ∧
    stores (step { launch [(0x8000, 0x00), (0xFFFE, 0x34), (0xFFFF, 0x12)] with p := 0xCF }) = [(0x0100, 0x80), (0x01FF, 0x02), (0x01FE, 0xFF)] := by decide

-- `NOP`, R238
theorem test_v170_nop :
    registers (step { launch [(0x8000, 0xEA)] with a := 0x01, x := 0x02, y := 0x03, sp := 0x04, p := 0xC3 }) = some ([0x01, 0x02, 0x03, 0x04, 0xC3], 0x8001, false) ∧
    stores (step { launch [(0x8000, 0xEA)] with a := 0x01, x := 0x02, y := 0x03, sp := 0x04, p := 0xC3 }) = [] := by decide

-- `JAM`, R239
theorem test_v172_jam :
    registers (step { launch [(0x8000, 0xF2)] with a := 0x11, p := 0x81 }) = some ([0x11, 0x00, 0x00, 0x00, 0x81], 0x8001, true) ∧
    stores (step { launch [(0x8000, 0xF2)] with a := 0x11, p := 0x81 }) = [] := by decide

-- `NOP #$FF`, R250
theorem test_v174_nop :
    registers (step (launch [(0x8000, 0x80), (0x8001, 0xFF)])) = some ([0x00, 0x00, 0x00, 0x00, 0x00], 0x8002, false) ∧
    stores (step (launch [(0x8000, 0x80), (0x8001, 0xFF)])) = [] := by decide

-- `NOP $12FF,X`, R250
theorem test_v178_nop :
    registers (step { launch [(0x8000, 0xFC), (0x8001, 0xFF), (0x8002, 0x12)] with x := 0x01 }) = some ([0x00, 0x01, 0x00, 0x00, 0x00], 0x8003, false) ∧
    stores (step { launch [(0x8000, 0xFC), (0x8001, 0xFF), (0x8002, 0x12)] with x := 0x01 }) = [] := by decide

-- `LAX $0200,Y`, R251
theorem test_v181_lax :
    registers (step { launch [(0x0201, 0x7F), (0x8000, 0xBF), (0x8001, 0x00), (0x8002, 0x02)] with y := 0x01 }) = some ([0x7F, 0x7F, 0x01, 0x00, 0x00], 0x8003, false) ∧
    stores (step { launch [(0x0201, 0x7F), (0x8000, 0xBF), (0x8001, 0x00), (0x8002, 0x02)] with y := 0x01 }) = [] := by decide

-- `SAX ($20,X)`, R252
theorem test_v185_sax :
    registers (step { launch [(0x001E, 0x00), (0x001F, 0x03), (0x8000, 0x83), (0x8001, 0x20)] with a := 0xAA, x := 0xFE }) = some ([0xAA, 0xFE, 0x00, 0x00, 0x00], 0x8002, false) ∧
    stores (step { launch [(0x001E, 0x00), (0x001F, 0x03), (0x8000, 0x83), (0x8001, 0x20)] with a := 0xAA, x := 0xFE }) = [(0x0300, 0xAA)] := by decide

-- `DCP $10`, R253
theorem test_v186_dcp :
    registers (step { launch [(0x0010, 0x41), (0x8000, 0xC7), (0x8001, 0x10)] with a := 0x40 }) = some ([0x40, 0x00, 0x00, 0x00, 0x03], 0x8002, false) ∧
    stores (step { launch [(0x0010, 0x41), (0x8000, 0xC7), (0x8001, 0x10)] with a := 0x40 }) = [(0x0010, 0x40)] := by decide

-- `DCP $10`, R253
theorem test_v187_dcp :
    registers (step { launch [(0x0010, 0x00), (0x8000, 0xC7), (0x8001, 0x10)] with a := 0x00 }) = some ([0x00, 0x00, 0x00, 0x00, 0x00], 0x8002, false) ∧
    stores (step { launch [(0x0010, 0x00), (0x8000, 0xC7), (0x8001, 0x10)] with a := 0x00 }) = [(0x0010, 0xFF)] := by decide

-- `ISC ($20),Y`, R254
theorem test_v191_isc :
    registers (step { launch [(0x0020, 0x00), (0x0021, 0x02), (0x0200, 0x00), (0x8000, 0xF3), (0x8001, 0x20)] with a := 0x80, y := 0x00, p := 0x01 }) = some ([0x7F, 0x00, 0x00, 0x00, 0x41], 0x8002, false) ∧
    stores (step { launch [(0x0020, 0x00), (0x0021, 0x02), (0x0200, 0x00), (0x8000, 0xF3), (0x8001, 0x20)] with a := 0x80, y := 0x00, p := 0x01 }) = [(0x0200, 0x01)] := by decide

-- `SLO $10`, R255
theorem test_v193_slo :
    registers (step { launch [(0x0010, 0x80), (0x8000, 0x07), (0x8001, 0x10)] with a := 0x01 }) = some ([0x01, 0x00, 0x00, 0x00, 0x01], 0x8002, false) ∧
    stores (step { launch [(0x0010, 0x80), (0x8000, 0x07), (0x8001, 0x10)] with a := 0x01 }) = [(0x0010, 0x00)] := by decide

-- `RLA $10`, R256
theorem test_v195_rla :
    registers (step { launch [(0x0010, 0x80), (0x8000, 0x27), (0x8001, 0x10)] with a := 0xFF, p := 0x01 }) = some ([0x01, 0x00, 0x00, 0x00, 0x01], 0x8002, false) ∧
    stores (step { launch [(0x0010, 0x80), (0x8000, 0x27), (0x8001, 0x10)] with a := 0xFF, p := 0x01 }) = [(0x0010, 0x01)] := by decide

-- `SRE $10`, R257
theorem test_v198_sre :
    registers (step { launch [(0x0010, 0x02), (0x8000, 0x47), (0x8001, 0x10)] with a := 0x80 }) = some ([0x81, 0x00, 0x00, 0x00, 0x80], 0x8002, false) ∧
    stores (step { launch [(0x0010, 0x02), (0x8000, 0x47), (0x8001, 0x10)] with a := 0x80 }) = [(0x0010, 0x01)] := by decide

-- `RRA $10`, R258
theorem test_v200_rra :
    registers (step { launch [(0x0010, 0x01), (0x8000, 0x67), (0x8001, 0x10)] with a := 0x10 }) = some ([0x11, 0x00, 0x00, 0x00, 0x00], 0x8002, false) ∧
    stores (step { launch [(0x0010, 0x01), (0x8000, 0x67), (0x8001, 0x10)] with a := 0x10 }) = [(0x0010, 0x00)] := by decide

-- `RRA $10`, R258
theorem test_v201_rra :
    registers (step { launch [(0x0010, 0x00), (0x8000, 0x67), (0x8001, 0x10)] with a := 0x7F, p := 0x01 }) = some ([0xFF, 0x00, 0x00, 0x00, 0x80], 0x8002, false) ∧
    stores (step { launch [(0x0010, 0x00), (0x8000, 0x67), (0x8001, 0x10)] with a := 0x7F, p := 0x01 }) = [(0x0010, 0x80)] := by decide

-- `ALR #$01`, R259
theorem test_v204_alr :
    registers (step { launch [(0x8000, 0x4B), (0x8001, 0x01)] with a := 0x01, p := 0x80 }) = some ([0x00, 0x00, 0x00, 0x00, 0x03], 0x8002, false) ∧
    stores (step { launch [(0x8000, 0x4B), (0x8001, 0x01)] with a := 0x01, p := 0x80 }) = [] := by decide

-- `ANC #$80`, R260
theorem test_v205_anc :
    registers (step { launch [(0x8000, 0x0B), (0x8001, 0x80)] with a := 0xF0 }) = some ([0x80, 0x00, 0x00, 0x00, 0x81], 0x8002, false) ∧
    stores (step { launch [(0x8000, 0x0B), (0x8001, 0x80)] with a := 0xF0 }) = [] := by decide

-- `ANC #$7F`, R260
theorem test_v206_anc :
    registers (step { launch [(0x8000, 0x2B), (0x8001, 0x7F)] with a := 0xFF, p := 0x01 }) = some ([0x7F, 0x00, 0x00, 0x00, 0x00], 0x8002, false) ∧
    stores (step { launch [(0x8000, 0x2B), (0x8001, 0x7F)] with a := 0xFF, p := 0x01 }) = [] := by decide

-- `ARR #$FF`, R261
theorem test_v208_arr :
    registers (step { launch [(0x8000, 0x6B), (0x8001, 0xFF)] with a := 0x80 }) = some ([0x40, 0x00, 0x00, 0x00, 0x41], 0x8002, false) ∧
    stores (step { launch [(0x8000, 0x6B), (0x8001, 0xFF)] with a := 0x80 }) = [] := by decide

-- `ARR #$FF`, R261
theorem test_v210_arr :
    registers (step { launch [(0x8000, 0x6B), (0x8001, 0xFF)] with a := 0x40 }) = some ([0x20, 0x00, 0x00, 0x00, 0x40], 0x8002, false) ∧
    stores (step { launch [(0x8000, 0x6B), (0x8001, 0xFF)] with a := 0x40 }) = [] := by decide

-- `SBX #$10`, R262
theorem test_v213_sbx :
    registers (step { launch [(0x8000, 0xCB), (0x8001, 0x10)] with a := 0xF0, x := 0x3C }) = some ([0xF0, 0x20, 0x00, 0x00, 0x01], 0x8002, false) ∧
    stores (step { launch [(0x8000, 0xCB), (0x8001, 0x10)] with a := 0xF0, x := 0x3C }) = [] := by decide

-- `SBX #$20`, R262
theorem test_v214_sbx :
    registers (step { launch [(0x8000, 0xCB), (0x8001, 0x20)] with a := 0xFF, x := 0x10, p := 0x41 }) = some ([0xFF, 0xF0, 0x00, 0x00, 0xC0], 0x8002, false) ∧
    stores (step { launch [(0x8000, 0xCB), (0x8001, 0x20)] with a := 0xFF, x := 0x10, p := 0x41 }) = [] := by decide

-- `USB #$01`, R263
theorem test_v217_usb :
    registers (step { launch [(0x8000, 0xEB), (0x8001, 0x01)] with a := 0x80, p := 0x01 }) = some ([0x7F, 0x00, 0x00, 0x00, 0x41], 0x8002, false) ∧
    stores (step { launch [(0x8000, 0xEB), (0x8001, 0x01)] with a := 0x80, p := 0x01 }) = [] := by decide

-- `LAS $0200,Y`, R264
theorem test_v218_las :
    registers (step { launch [(0x0200, 0x3C), (0x8000, 0xBB), (0x8001, 0x00), (0x8002, 0x02)] with sp := 0xF0 }) = some ([0x30, 0x30, 0x00, 0x30, 0x00], 0x8003, false) ∧
    stores (step { launch [(0x0200, 0x3C), (0x8000, 0xBB), (0x8001, 0x00), (0x8002, 0x02)] with sp := 0xF0 }) = [] := by decide

-- `ANE #$FF`, R265
theorem test_v220_ane :
    registers (step { launch [(0x8000, 0x8B), (0x8001, 0xFF)] with a := 0x12, x := 0x34 }) = some ([0x12, 0x34, 0x00, 0x00, 0x00], 0x8002, false) ∧
    stores (step { launch [(0x8000, 0x8B), (0x8001, 0xFF)] with a := 0x12, x := 0x34 }) = [] := by decide

-- `LXA #$55`, R266
theorem test_v221_lxa :
    registers (step { launch [(0x8000, 0xAB), (0x8001, 0x55)] with a := 0x12, x := 0x34 }) = some ([0x12, 0x34, 0x00, 0x00, 0x00], 0x8002, false) ∧
    stores (step { launch [(0x8000, 0xAB), (0x8001, 0x55)] with a := 0x12, x := 0x34 }) = [] := by decide

-- `SHA $0200,Y`, R267
theorem test_v222_sha :
    registers (step { launch [(0x8000, 0x9F), (0x8001, 0x00), (0x8002, 0x02)] with a := 0xFF, x := 0xFF, y := 0x01 }) = some ([0xFF, 0xFF, 0x01, 0x00, 0x00], 0x8003, false) ∧
    stores (step { launch [(0x8000, 0x9F), (0x8001, 0x00), (0x8002, 0x02)] with a := 0xFF, x := 0xFF, y := 0x01 }) = [] := by decide

-- `SHA ($40),Y`, R267
theorem test_v223_sha :
    registers (step { launch [(0x0040, 0x00), (0x0041, 0x02), (0x8000, 0x93), (0x8001, 0x40)] with a := 0xFF, x := 0xFF }) = some ([0xFF, 0xFF, 0x00, 0x00, 0x00], 0x8002, false) ∧
    stores (step { launch [(0x0040, 0x00), (0x0041, 0x02), (0x8000, 0x93), (0x8001, 0x40)] with a := 0xFF, x := 0xFF }) = [] := by decide

-- `SHX $0200,Y`, R268
theorem test_v224_shx :
    registers (step { launch [(0x8000, 0x9E), (0x8001, 0x00), (0x8002, 0x02)] with x := 0xFF, y := 0x01 }) = some ([0x00, 0xFF, 0x01, 0x00, 0x00], 0x8003, false) ∧
    stores (step { launch [(0x8000, 0x9E), (0x8001, 0x00), (0x8002, 0x02)] with x := 0xFF, y := 0x01 }) = [] := by decide

-- `SHY $0200,X`, R269
theorem test_v225_shy :
    registers (step { launch [(0x8000, 0x9C), (0x8001, 0x00), (0x8002, 0x02)] with x := 0x01, y := 0xFF }) = some ([0x00, 0x01, 0xFF, 0x00, 0x00], 0x8003, false) ∧
    stores (step { launch [(0x8000, 0x9C), (0x8001, 0x00), (0x8002, 0x02)] with x := 0x01, y := 0xFF }) = [] := by decide

-- `TAS $0200,Y`, R270
theorem test_v226_tas :
    registers (step { launch [(0x8000, 0x9B), (0x8001, 0x00), (0x8002, 0x02)] with a := 0xFF, x := 0x0F, sp := 0xFD }) = some ([0xFF, 0x0F, 0x00, 0xFD, 0x00], 0x8003, false) ∧
    stores (step { launch [(0x8000, 0x9B), (0x8001, 0x00), (0x8002, 0x02)] with a := 0xFF, x := 0x0F, sp := 0xFD }) = [] := by decide

/-! ## The bus accesses of one step, complete and in order (`95_test_vectors.md` section 4) -/

theorem test_trace_reads :
    accesses (step (launch [(0x8000, 0xA9), (0x8001, 0x42)])) =
      [.read 0x8000 0xA9, .read 0x8001 0x42] ∧
    accesses (step { launch [(0x000F, 0x77), (0x8000, 0xB5), (0x8001, 0x10)] with x := 0xFF }) =
      [.read 0x8000 0xB5, .read 0x8001 0x10, .read 0x000F 0x77] ∧
    accesses (step { launch [(0x1300, 0x21), (0x8000, 0xBD), (0x8001, 0xFF), (0x8002, 0x12)] with x := 0x01 }) =
      [.read 0x8000 0xBD, .read 0x8001 0xFF, .read 0x8002 0x12, .read 0x1300 0x21] ∧
    accesses (step { launch [(0x0024, 0x00), (0x0025, 0x30), (0x3000, 0x5A), (0x8000, 0xA1), (0x8001, 0x20)] with x := 0x04 }) =
      [.read 0x8000 0xA1, .read 0x8001 0x20, .read 0x0024 0x00, .read 0x0025 0x30, .read 0x3000 0x5A] ∧
    accesses (step { launch [(0x0020, 0xF8), (0x0021, 0x12), (0x1308, 0x6A), (0x8000, 0xB1), (0x8001, 0x20)] with y := 0x10 }) =
      [.read 0x8000 0xB1, .read 0x8001 0x20, .read 0x0020 0xF8, .read 0x0021 0x12, .read 0x1308 0x6A] := by decide

theorem test_trace_stores :
    accesses (step { launch [(0x8000, 0x85), (0x8001, 0x10)] with a := 0x42 }) =
      [.read 0x8000 0x85, .read 0x8001 0x10, .write 0x0010 0x42] ∧
    accesses (step { launch [(0x0020, 0xFF), (0x0021, 0x02), (0x8000, 0x91), (0x8001, 0x20)] with a := 0x96, y := 0x01 }) =
      [.read 0x8000 0x91, .read 0x8001 0x20, .read 0x0020 0xFF, .read 0x0021 0x02, .write 0x0300 0x96] ∧
    accesses (step { launch [(0x001E, 0x00), (0x001F, 0x03), (0x8000, 0x83), (0x8001, 0x20)] with a := 0xAA, x := 0xFE }) =
      [.read 0x8000 0x83, .read 0x8001 0x20, .read 0x001E 0x00, .read 0x001F 0x03, .write 0x0300 0xAA] := by decide

theorem test_trace_modifies :
    accesses (step { launch [(0x8000, 0x0A)] with a := 0x81 }) =
      [.read 0x8000 0x0A] ∧
    accesses (step (launch [(0x0010, 0xFF), (0x8000, 0xE6), (0x8001, 0x10)])) =
      [.read 0x8000 0xE6, .read 0x8001 0x10, .read 0x0010 0xFF, .write 0x0010 0x00] ∧
    accesses (step { launch [(0x0020, 0x00), (0x0021, 0x02), (0x0201, 0x11), (0x8000, 0xD3), (0x8001, 0x20)] with a := 0x10, y := 0x01 }) =
      [.read 0x8000 0xD3, .read 0x8001 0x20, .read 0x0020 0x00, .read 0x0021 0x02, .read 0x0201 0x11, .write 0x0201 0x10] ∧
    accesses (step { launch [(0x0201, 0x02), (0x8000, 0x7B), (0x8001, 0x00), (0x8002, 0x02)] with a := 0x10, y := 0x01 }) =
      [.read 0x8000 0x7B, .read 0x8001 0x00, .read 0x8002 0x02, .read 0x0201 0x02, .write 0x0201 0x01] := by decide

theorem test_trace_control :
    accesses (step (launch [(0x8000, 0xD0), (0x8001, 0xFD)])) =
      [.read 0x8000 0xD0, .read 0x8001 0xFD] ∧
    accesses (step { launch [(0x8000, 0xD0), (0x8001, 0xFD)] with p := 0x02 }) =
      [.read 0x8000 0xD0, .read 0x8001 0xFD] ∧
    accesses (step (launch [(0x1000, 0x12), (0x10FF, 0x34), (0x8000, 0x6C), (0x8001, 0xFF), (0x8002, 0x10)])) =
      [.read 0x8000 0x6C, .read 0x8001 0xFF, .read 0x8002 0x10, .read 0x10FF 0x34, .read 0x1000 0x12] ∧
    accesses (step { launch [(0x8000, 0x20), (0x8001, 0x00), (0x8002, 0x90)] with sp := 0xFD }) =
      [.read 0x8000 0x20, .read 0x8001 0x00, .read 0x8002 0x90, .write 0x01FD 0x80, .write 0x01FC 0x02] ∧
    accesses (step { launch [(0x01FC, 0x02), (0x01FD, 0x80), (0x8000, 0x60)] with sp := 0xFB }) =
      [.read 0x8000 0x60, .read 0x01FC 0x02, .read 0x01FD 0x80] ∧
    accesses (step { launch [(0x01FB, 0xF3), (0x01FC, 0x02), (0x01FD, 0x80), (0x8000, 0x40)] with sp := 0xFA }) =
      [.read 0x8000 0x40, .read 0x01FB 0xF3, .read 0x01FC 0x02, .read 0x01FD 0x80] ∧
    accesses (step { launch [(0x8000, 0x00), (0x8001, 0xEA), (0xFFFE, 0x00), (0xFFFF, 0xC0)] with sp := 0xFD, p := 0x01 }) =
      [.read 0x8000 0x00, .write 0x01FD 0x80, .write 0x01FC 0x02, .write 0x01FB 0x31, .read 0xFFFE 0x00, .read 0xFFFF 0xC0] := by decide

theorem test_trace_ignored_operands :
    accesses (step (launch [(0x8000, 0x80), (0x8001, 0xFF)])) =
      [.read 0x8000 0x80] ∧
    accesses (step (launch [(0x0010, 0x80), (0x8000, 0x04), (0x8001, 0x10)])) =
      [.read 0x8000 0x04, .read 0x8001 0x10] ∧
    accesses (step { launch [(0x8000, 0xFC), (0x8001, 0xFF), (0x8002, 0x12)] with x := 0x01 }) =
      [.read 0x8000 0xFC, .read 0x8001 0xFF, .read 0x8002 0x12] ∧
    accesses (step (launch [(0x8000, 0x8B), (0x8001, 0xFF)])) =
      [.read 0x8000 0x8B] ∧
    accesses (step { launch [(0x8000, 0x9E), (0x8001, 0x00), (0x8002, 0x02)] with y := 0x01 }) =
      [.read 0x8000 0x9E, .read 0x8001 0x00, .read 0x8002 0x02] ∧
    accesses (step (launch [(0x0040, 0x00), (0x0041, 0x02), (0x8000, 0x93), (0x8001, 0x40)])) =
      [.read 0x8000 0x93, .read 0x8001 0x40, .read 0x0040 0x00, .read 0x0041 0x02] := by decide

/-! ## Host inputs (`95_test_vectors.md` section 2.8) -/

/-- The vectors of section 2.8 on the bus. -/
def vectors : List (Nat × Byte) := [(0xFFFB, 0x91), (0xFFFF, 0x90)]

theorem test_v228_reset :
    let o := applyInput .reset { launch vectors with a := 0x11, sp := 0xF0, p := 0x81, pc := 0x8001, halted := true }
    registers o = some ([0x00, 0x00, 0x00, 0x00, 0x00], 0x8000, false) ∧
    accesses o = [.read 0xFFFC 0x00, .read 0xFFFD 0x80] := by decide

theorem test_v229_irq :
    let o := applyInput .irq { launch vectors with a := 0x11, sp := 0xFD, p := 0x81, pc := 0x8123 }
    registers o = some ([0x11, 0x00, 0x00, 0xFA, 0x85], 0x9000, false) ∧
    accesses o = [.write 0x01FD 0x81, .write 0x01FC 0x23, .write 0x01FB 0xA1, .read 0xFFFE 0x00, .read 0xFFFF 0x90] := by
  decide

theorem test_v230_irq_masked :
    let o := applyInput .irq { launch vectors with a := 0x11, sp := 0xFD, p := 0x85, pc := 0x8123 }
    registers o = some ([0x11, 0x00, 0x00, 0xFD, 0x85], 0x8123, false) ∧ accesses o = [] := by decide

theorem test_v232_nmi :
    let o := applyInput .nmi { launch vectors with sp := 0x01, p := 0x00, pc := 0xFFFF }
    registers o = some ([0x00, 0x00, 0x00, 0xFE, 0x04], 0x9100, false) ∧
    accesses o = [.write 0x0101 0xFF, .write 0x0100 0xFF, .write 0x01FF 0x20, .read 0xFFFA 0x00, .read 0xFFFB 0x91] := by
  decide

theorem test_v233_v234_jammed :
    let s := { launch vectors with sp := 0xFD, pc := 0x8001, halted := true }
    registers (runInputs [.irq, .nmi, .tick] s) = some ([0x00, 0x00, 0x00, 0xFD, 0x00], 0x8001, true) ∧
    accesses (runInputs [.irq, .nmi, .tick] s) = [] := by decide

theorem test_v236_irq_then_nmi :
    let o := runInputs [.irq, .nmi] { launch vectors with sp := 0xFD, pc := 0x8123 }
    registers o = some ([0x00, 0x00, 0x00, 0xF7, 0x04], 0x9100, false) ∧
    accesses o = [.write 0x01FD 0x81, .write 0x01FC 0x23, .write 0x01FB 0x20, .read 0xFFFE 0x00, .read 0xFFFF 0x90,
      .write 0x01FA 0x90, .write 0x01F9 0x00, .write 0x01F8 0x24, .read 0xFFFA 0x00, .read 0xFFFB 0x91] := by decide

/-! ## Witnesses: for each statement with hypotheses, a state and operands that meet all of them together -/

/-- A Running state with `LDA $10` at 0x8000. -/
def sample : State := launch [(0x0010, 0x55), (0x8000, 0xA5), (0x8001, 0x10)]

theorem test_witness_DecodeOfEncodeIsTheInstruction :
    (Instr.lda (.indy 0xFF)).wf = true ∧ (Instr.nopu 5 (.absx 0xFFFF)).wf = true ∧ (Instr.jam 11).wf = true := by decide

theorem test_witness_EncodeOfDecodeIsTheBytes :
    decode [0x20, 0x00, 0x90, 0x60] = .ok (.jsr 0x9000, [0x60]) := rfl

theorem test_witness_StepRunsTheDecodedInstruction :
    sample.halted = false ∧ decode (bytesAtPc sample) = .ok (.lda (.zpg 0x10), [0x00]) := ⟨rfl, rfl⟩

theorem test_witness_PlacedWordIsFetched : decodeTableWord 16 0x42A9 = some (.lda (.imm 0x42)) := by decide

theorem test_witness_TickMakesOneToSixAccesses : ∃ t, sample.halted = false ∧ step sample = .next t := ⟨_, rfl, rfl⟩

theorem test_witness_ResetStateIsResetOfEmptyBus :
    ({ sample with mem := [], bus := [] } : State).mem = [] ∧ ({ sample with mem := [], bus := [] } : State).bus = [] := by
  decide

theorem test_witness_EveryStepKeepsCanonicalMemory_step : ∃ t, Inv sample ∧ step sample = .next t := ⟨_, rfl, rfl⟩

theorem test_witness_EveryStepKeepsCanonicalMemory_input (i : HostInput) :
    ∃ t, Inv sample ∧ applyInput i sample = .next t := by
  cases i <;> exact ⟨_, rfl, rfl⟩

theorem test_witness_UnusedStatusBitsAreNeverSet_step : ∃ t, step { sample with p := 0xFF } = .next t := ⟨_, rfl⟩

theorem test_witness_UnusedStatusBitsAreNeverSet_input (i : HostInput) :
    ∃ t, UnusedBitsClear { sample with p := 0xCF } ∧ applyInput i { sample with p := 0xCF } = .next t := by
  cases i <;> exact ⟨_, ⟨rfl, rfl⟩, rfl⟩

theorem test_witness_OnlyJamJams :
    (∃ t, sample.halted = false ∧ step sample = .next t) ∧
    ∃ t, (launch [(0x8000, 0x02)]).halted = false ∧ step (launch [(0x8000, 0x02)]) = .next t := ⟨⟨_, rfl, rfl⟩, ⟨_, rfl, rfl⟩⟩

theorem test_witness_JammedUntilReset :
    HostInput.reset ∉ [HostInput.tick, .irq, .nmi] ∧ ({ sample with halted := true } : State).halted = true := by decide

theorem test_witness_OnlyNamedInstructionsWriteFlags (f : Flag) :
    ∃ t, exec (.sta (.zpg 0x10)) sample = .next t ∧ writesFlag f (.sta (.zpg 0x10)) = false := by
  cases f <;> exact ⟨_, rfl, rfl⟩

theorem test_witness_OnlyNamedInstructionsWriteRegisters (r : Reg) :
    ∃ t, (Instr.asl (.zpg 0x10)).wf = true ∧ exec (.asl (.zpg 0x10)) sample = .next t ∧
      writesReg r (.asl (.zpg 0x10)) = false := by
  cases r <;> exact ⟨_, rfl, rfl, rfl⟩

theorem test_witness_OnlyControlTransfersWritePc :
    ∃ t, exec (.jam 0) sample = .next t ∧ writesPc (.jam 0) = false := ⟨_, rfl, rfl⟩

theorem test_witness_MemoryChangesOnlyWhereStored :
    (∃ t, exec .brk sample = .next t) ∧ ∃ t, exec (.asl .acc) sample = .next t := ⟨⟨_, rfl⟩, ⟨_, rfl⟩⟩

theorem test_witness_DecimalFlagChangesNoResult :
    Instr.adc (.imm 0x01) ≠ .php ∧ Instr.adc (.imm 0x01) ≠ .brk ∧ writesFlag .d (.adc (.imm 0x01)) = false := by decide

theorem test_witness_DecimalFlagChangesNoResult_writers :
    writesFlag .d .cld = true ∧ writesFlag .d .sed = true ∧ writesFlag .d .plp = true ∧ writesFlag .d .rti = true := by
  decide

theorem test_witness_UnusedStatusBitsAreNotRead :
    (Flag.u = .u ∨ Flag.u = .b) ∧ (Flag.b = .u ∨ Flag.b = .b) := by decide

theorem test_witness_StatusByteForms : Flag.n ≠ .u ∧ Flag.n ≠ .b ∧ Flag.c ≠ .u ∧ Flag.c ≠ .b := by decide

theorem test_witness_StoresStoreARegister :
    (Instr.sta (.indx 0xFF)).wf = true ∧ (Instr.stx (.zpgy 0xFF)).wf = true ∧ (Instr.sty (.abs 0xFFFF)).wf = true := by
  decide

theorem test_witness_IncDecCountInMemory :
    (Instr.inc (.absx 0xFFFF)).wf = true ∧ (Instr.dec (.zpg 0x00)).wf = true := by decide

theorem test_witness_CountAndRotateRoundTrips :
    (∃ t, (Instr.inc (.zpgx 0xFF)).wf = true ∧ exec (.inc (.zpgx 0xFF)) sample = .next t) ∧
    (∃ t, (Instr.rol .acc).wf = true ∧ exec (.rol .acc) sample = .next t) ∧
    ∃ t, (Instr.rol (.abs 0x8000)).wf = true ∧ exec (.rol (.abs 0x8000)) sample = .next t :=
  ⟨⟨_, rfl, rfl⟩, ⟨_, rfl, rfl⟩, ⟨_, rfl, rfl⟩⟩

theorem test_witness_RtsUndoesJsr :
    ∃ t, exec (.jsr 0x9000) { sample with sp := 0x00 } = .next t := ⟨_, rfl⟩

theorem test_witness_LaxLoadsAAndXAndSaxStoresThem : (Instr.sax (.indx 0xFF)).wf = true := by decide

theorem test_witness_DcpAndIscCountThenCombine :
    (Instr.dcp (.indy 0xFF)).wf = true ∧ (Instr.isc (.absy 0xFFFF)).wf = true := by decide

theorem test_witness_ShiftCompositesShiftThenCombine :
    (Instr.slo (.indy 0xFF)).wf = true ∧ (Instr.rla (.absx 0xFFFF)).wf = true ∧ (Instr.sre (.zpgx 0x00)).wf = true ∧
    (Instr.rra (.indx 0x00)).wf = true := by decide

theorem test_witness_RtiResumes : ∃ t, exec .brk { sample with sp := 0x01 } = .next t := ⟨_, rfl⟩

theorem test_witness_InterruptsFollowTheCallOrder : sample.halted = false ∧ sample.flag .i = false := by decide

end Sys2Proof.Tests
end

/-! # What an instruction may change: the frame of `exec` (`10_state.md` R20 to R29)

`Frame i s t` says that `t` differs from `s` in what the written-by lists name for `i`, memory and the bus record aside. It
is kept by every operation the meanings are made of, so one split over the instructions gives `exec_frame`. -/

namespace Sys2Proof.Machine

/-- The registers, the flags, PC and the Jammed condition are as in `s`, but for what instruction `i` is named a writer of.
Only the registers need `i` to be well formed: an accumulator operand that the instruction does not have would write A. -/
structure Frame (i : Instr) (s t : State) : Prop where
  reg : ∀ r, i.wf = true → writesReg r i = false → t.reg r = s.reg r
  flag : ∀ f, writesFlag f i = false → t.flag f = s.flag f
  pc : writesPc i = false → t.pc = s.pc
  halted : isJam i = false → t.halted = s.halted

/-- An instruction that exists in accumulator mode is named among the writers of A there (`10_state.md` R20). -/
theorem writesReg_a_of_acc (i : Instr) (hwf : i.wf = true) (hacc : i.operand = .acc) : writesReg .a i = true := by
  cases i with
  | asl o | lsr o | rol o | ror o =>
    obtain rfl : o = .acc := hacc
    rfl
  | nopu k o =>
    obtain rfl : o = .acc := hacc
    simp [Instr.wf, Operand.mode, nopuCount] at hwf
  | lda o | ldx o | ldy o | sta o | stx o | sty o | adc o | sbc o | cmp o | cpx o | cpy o | and o | ora o | eor o | bit o
  | inc o | dec o | jmp o | lax o | sax o | dcp o | isc o | slo o | rla o | sre o | rra o | sha o =>
    obtain rfl : o = .acc := hacc
    cases hwf
  | _ => cases hacc

namespace Frame

variable {i : Instr} {s u t : State}

theorem refl (i : Instr) (s : State) : Frame i s s :=
  ⟨fun _ _ _ => rfl, fun _ _ => rfl, fun _ => rfl, fun _ => rfl⟩

/-! ## Registers, flags and PC: the instruction has to be a writer -/

/-- An update of one register, by an instruction named among that register's writers if it is well formed. -/
theorem updateReg (h : Frame i s u) (q : Reg) (hw : i.wf = true → writesReg q i = true)
    (hreg : ∀ r, r ≠ q → t.reg r = u.reg r := by rintro (_ | _ | _ | _) hr <;> trivial)
    (hp : t.p = u.p := by rfl) (hpc : t.pc = u.pc := by rfl) (hh : t.halted = u.halted := by rfl) : Frame i s t where
  reg r hwf hr := by
    have hne : r ≠ q := by
      rintro rfl
      simp [hw hwf] at hr
    rw [hreg r hne, h.reg r hwf hr]
  flag f hf := by rw [State.flag, hp]; exact h.flag f hf
  pc hi := hpc.trans (h.pc hi)
  halted hi := hh.trans (h.halted hi)

theorem setA {v : Byte} (h : Frame i s u) (hw : writesReg .a i = true := by rfl) : Frame i s (u.setA v) :=
  h.updateReg .a fun _ => hw

theorem setX {v : Byte} (h : Frame i s u) (hw : writesReg .x i = true := by rfl) : Frame i s (u.setX v) :=
  h.updateReg .x fun _ => hw

theorem setY {v : Byte} (h : Frame i s u) (hw : writesReg .y i = true := by rfl) : Frame i s (u.setY v) :=
  h.updateReg .y fun _ => hw

theorem setSp {v : Byte} (h : Frame i s u) (hw : writesReg .sp i = true := by rfl) : Frame i s (u.setSp v) :=
  h.updateReg .sp fun _ => hw

theorem setPc {v : Word} (h : Frame i s u) (hw : writesPc i = true := by rfl) : Frame i s (u.setPc v) :=
  { h with pc := fun hi => by simp [hw] at hi }

theorem putFlag {g : Flag} {v : Bool} (h : Frame i s u) (hw : writesFlag g i = true := by rfl) :
    Frame i s (u.putFlag g v) :=
  { h with
    flag := fun f hf => by
      have hne : f ≠ g := by
        rintro rfl
        simp [hw] at hf
      rw [State.putFlag_flag, if_neg hne, h.flag f hf] }

theorem setNZ {v : Byte} (h : Frame i s u) (hn : writesFlag .n i = true := by rfl)
    (hz : writesFlag .z i = true := by rfl) : Frame i s (u.setNZ v) :=
  (h.putFlag hn).putFlag hz

theorem compare {r m : Byte} (h : Frame i s u) (hc : writesFlag .c i = true := by rfl)
    (hz : writesFlag .z i = true := by rfl) (hn : writesFlag .n i = true := by rfl) : Frame i s (u.compare r m) :=
  ((h.putFlag hc).putFlag hz).putFlag hn

theorem addToA {m : Byte} (h : Frame i s u) (ha : writesReg .a i = true := by rfl)
    (hc : writesFlag .c i = true := by rfl) (hv : writesFlag .v i = true := by rfl)
    (hn : writesFlag .n i = true := by rfl) (hz : writesFlag .z i = true := by rfl) : Frame i s (u.addToA m) :=
  (((h.putFlag hc).putFlag hv).setA ha).setNZ hn hz

/-- Pulling the status byte writes every flag but bits 5 and 4 (`10_state.md` R32). -/
theorem pullStatus {b : Byte} (h : Frame i s u)
    (hw : ∀ f, f ≠ .u → f ≠ .b → writesFlag f i = true := by rintro (_ | _ | _ | _ | _ | _ | _ | _) hu hb <;> trivial) :
    Frame i s (u.setP (pullForm u.p b)) :=
  { h with
    flag := fun f hf => by
      have hub : f = .u ∨ f = .b := by
        by_contra hne
        rw [not_or] at hne
        simp [hw f hne.1 hne.2] at hf
      rw [State.setP_flag, getFlag_pullForm, if_pos hub]
      exact h.flag f hf }

/-! ## Memory and the bus record: any instruction -/

theorem noteRead {a : Word} {v : Byte} (h : Frame i s u) : Frame i s (u.noteRead a v) := { h with }

theorem memWrite {a : Word} {v : Byte} (h : Frame i s u) : Frame i s (memWrite a v u) := { h with }

theorem afterRead {o : Operand} (h : Frame i s u) : Frame i s (afterRead o u) := { h with }

theorem resolve {o : Operand} (h : Frame i s u) : Frame i s (resolve o u).2 := by
  rw [resolve_state]
  exact { h with }

/-! ## Stack and traps -/

theorem push8 {v : Byte} (h : Frame i s u) (hw : writesReg .sp i = true := by rfl) : Frame i s (push8 v u) :=
  h.memWrite.setSp hw

theorem pull8 (h : Frame i s u) (hw : writesReg .sp i = true := by rfl) : Frame i s (pull8 u).2 :=
  (h.setSp hw).noteRead

theorem pullWord (h : Frame i s u) (hw : writesReg .sp i = true := by rfl) : Frame i s (pullWord u).2 :=
  (h.pull8 hw).pull8 hw

/-! ## The shapes of an instruction with an operand -/

theorem operandWrite {o : Operand} {op : Word} {v : Byte} (h : Frame i s u)
    (hw : i.wf = true → o = .acc → writesReg .a i = true) : Frame i s (operandWrite o op v u) := by
  cases o with
  | acc => exact h.updateReg .a fun hwf => hw hwf rfl
  | _ => exact h.memWrite

theorem of_next (h : Host.Outcome.next (φ := Fault) (ρ := Refusal) u = .next t) (hu : Frame i s u) : Frame i s t := by
  cases h
  exact hu

theorem of_reads {o : Operand} {k : Byte → State → State} (h : readingOperand o k s = .next t)
    (hk : ∀ m u, Frame i s u → Frame i s (k m u)) : Frame i s t :=
  of_next ((readingOperand_eq o k s).symm.trans h) (hk _ _ (refl i s).afterRead)

theorem of_writes {o : Operand} {v : Byte} (h : writingOperand o v s = .next t) (ho : i.operand = o := by rfl) :
    Frame i s t :=
  of_next h ((refl i s).resolve.operandWrite fun hwf hacc => writesReg_a_of_acc i hwf (ho.trans hacc))

theorem of_modifies {o : Operand} {f : Byte → Byte} {k : Byte → Byte → State → State}
    (h : modifyingOperand o f k s = .next t) (hk : ∀ m r u, Frame i s u → Frame i s (k m r u))
    (ho : i.operand = o := by rfl) : Frame i s t :=
  of_next ((modifyingOperand_eq o f k s).symm.trans h)
    (hk _ _ _ ((refl i s).afterRead.operandWrite fun hwf hacc => writesReg_a_of_acc i hwf (ho.trans hacc)))

theorem of_ignores {o : Operand} (h : ignoringOperand o s = .next t) : Frame i s t :=
  of_next h (refl i s).resolve

theorem of_branch {c : Bool} {rr : Byte} (h : branch c rr s = .next t) (hw : writesPc i = true := by rfl) :
    Frame i s t :=
  of_reads h fun d u hu => by
    cases c
    · exact hu
    · exact hu.setPc hw

end Frame

/-- The frame of every instruction: what the written-by lists do not name for it is as it was. -/
theorem exec_frame {i : Instr} {s t : State} (h : exec i s = .next t) : Frame i s t := by
  have hs := Frame.refl i s
  cases i with dsimp only [exec] at h
  -- the operand is read
  | lda o => exact .of_reads h fun _ _ hu => hu.setA.setNZ
  | ldx o => exact .of_reads h fun _ _ hu => hu.setX.setNZ
  | ldy o => exact .of_reads h fun _ _ hu => hu.setY.setNZ
  | adc o | sbc o | usb ii => exact .of_reads h fun _ _ hu => hu.addToA
  | cmp o | cpx o | cpy o => exact .of_reads h fun _ _ hu => hu.compare
  | and o | ora o | eor o => exact .of_reads h fun _ _ hu => hu.setA.setNZ
  | bit o => exact .of_reads h fun _ _ hu => hu.putFlag.putFlag.putFlag
  | lax o => exact .of_reads h fun _ _ hu => hu.setA.setX.setNZ
  | alr ii => exact .of_reads h fun _ _ hu => hu.putFlag.setA.setNZ
  | anc k ii => exact .of_reads h fun _ _ hu => hu.setA.setNZ.putFlag
  | arr ii => exact .of_reads h fun _ _ hu => hu.setA.setNZ.putFlag.putFlag
  | sbx ii => exact .of_reads h fun _ _ hu => hu.putFlag.setX.setNZ
  | las hhll => exact .of_reads h fun _ _ hu => hu.setA.setX.setSp.setNZ
  -- the operand is written
  | sta o | stx o | sty o | sax o => exact .of_writes h
  -- the operand is read and written
  | asl o | lsr o | rol o | ror o => exact .of_modifies h fun _ _ _ hu => hu.putFlag.setNZ
  | inc o | dec o => exact .of_modifies h fun _ _ _ hu => hu.setNZ
  | dcp o => exact .of_modifies h fun _ _ _ hu => hu.compare
  | isc o => exact .of_modifies h fun _ _ _ hu => hu.addToA
  | slo o | rla o | sre o => exact .of_modifies h fun _ _ _ hu => hu.putFlag.setA.setNZ
  | rra o => exact .of_modifies h fun _ _ _ hu => hu.putFlag.addToA
  -- the operand is resolved only
  | nopu k o | ane ii | lxa ii | sha o | shx hhll | shy hhll | tas hhll => exact .of_ignores h
  -- registers and flags
  | tax | tsx | inx | dex => exact .of_next h hs.setX.setNZ
  | tay | iny | dey => exact .of_next h hs.setY.setNZ
  | txa | tya => exact .of_next h hs.setA.setNZ
  | txs => exact .of_next h hs.setSp
  | clc | sec | cli | sei | cld | sed | clv => exact .of_next h hs.putFlag
  | nop => exact .of_next h hs
  | jam k =>
    cases h
    exact { hs with halted := fun hj => by cases hj }
  -- the stack
  | pha | php => exact .of_next h hs.push8
  | pla => exact .of_next h hs.pull8.setA.setNZ
  | plp => exact .of_next h hs.pull8.pullStatus
  -- PC
  | bpl rr | bmi rr | bvc rr | bvs rr | bcc rr | bcs rr | bne rr | beq rr => exact .of_branch h
  | jmp o => exact .of_next h hs.resolve.setPc
  | jsr hhll => exact .of_next h hs.resolve.push8.push8.setPc
  | rts => exact .of_next h hs.pullWord.setPc
  | rti => exact .of_next h hs.pull8.pullStatus.pullWord.setPc
  | brk => exact .of_next h hs.push8.push8.push8.putFlag.noteRead.noteRead.setPc

end Sys2Proof.Machine

/-! # The written-by lists, PC and the Jammed condition (`10_state.md` R20 to R29) -/

namespace Sys2Proof.Machine

/-- Settles O16: the flags of the frame of `exec`. -/
theorem onlyNamedInstructionsWriteFlags : Obligations.OnlyNamedInstructionsWriteFlags :=
  fun f _ _ _ h hf => (exec_frame h).flag f hf

/-- Settles O17: the registers of the frame of `exec`. -/
theorem onlyNamedInstructionsWriteRegisters : Obligations.OnlyNamedInstructionsWriteRegisters :=
  fun r _ _ _ hwf h hr => (exec_frame h).reg r hwf hr

/-- Settles O18: PC in the frame of `exec`. -/
theorem onlyControlTransfersWritePc : Obligations.OnlyControlTransfersWritePc :=
  fun _ _ _ h hi => (exec_frame h).pc hi

/-- The execute step jams the machine exactly when the instruction is a JAM. -/
theorem exec_halted {i : Instr} {s t : State} (h : exec i s = .next t) : t.halted = (isJam i || s.halted) := by
  cases hj : isJam i with
  | false => simpa using (exec_frame h).halted hj
  | true =>
    cases i with
    | jam k =>
      cases h
      rfl
    | _ => cases hj

/-- Settles O14: a Running step is the execute step of the instruction at PC, after a fetch that leaves the machine
Running. -/
theorem onlyJamJams : Obligations.OnlyJamJams := by
  intro s t hs h
  rw [step_running s hs] at h
  simpa [hs] using exec_halted h

/-! # Bits 5 and 4 of P (`10_state.md` R26) -/

/-- No step changes a flag that no instruction writes. -/
theorem step_flag_of_no_writer {f : Flag} (hf : ∀ i, writesFlag f i = false) {s t : State} (h : step s = .next t) :
    t.flag f = s.flag f := by
  cases hs : s.halted with
  | true =>
    rw [step_halted s hs] at h
    cases h
    rfl
  | false =>
    rw [step_running s hs] at h
    simpa using (exec_frame h).flag f (hf _)

theorem step_unused_flags {s t : State} (h : step s = .next t) : t.flag .u = s.flag .u ∧ t.flag .b = s.flag .b :=
  ⟨step_flag_of_no_writer (fun _ => rfl) h, step_flag_of_no_writer (fun _ => rfl) h⟩

/-- Interrupt entry sets bit 5 and clears bit 4 in the byte it pushes, not in the register. -/
theorem interruptEntry_unusedBitsClear {vector : Word} {s : State} (h : UnusedBitsClear s) :
    UnusedBitsClear (interruptEntry vector s) := by
  simpa [UnusedBitsClear, interruptEntry] using h

theorem resetInput_unusedBitsClear (s : State) : UnusedBitsClear (resetInput s) := by
  have hp : (resetInput s).p = 0 := rfl
  simp [UnusedBitsClear, State.flag, hp, getFlag]

/-- Settles O13: reset() clears the whole register, a tick keeps both bits, and irq() and nmi() enter or do nothing. -/
theorem unusedStatusBitsAreNeverSet : Obligations.UnusedStatusBitsAreNeverSet := by
  refine ⟨⟨rfl, rfl⟩, fun s t h => step_unused_flags h, fun i s t hs h => ?_⟩
  cases i with
  | reset =>
    cases h
    exact resetInput_unusedBitsClear s
  | tick =>
    obtain ⟨hu, hb⟩ := step_unused_flags h
    exact ⟨hu.trans hs.1, hb.trans hs.2⟩
  | irq =>
    cases h
    split
    · exact hs
    · exact interruptEntry_unusedBitsClear hs
  | nmi =>
    cases h
    split
    · exact hs
    · exact interruptEntry_unusedBitsClear hs

/-- Settles O25: the laws of each form, flag by flag. -/
theorem statusByteForms : Obligations.StatusByteForms :=
  ⟨fun _ => ⟨rfl, rfl, rfl, rfl, rfl, rfl, rfl, rfl⟩, getFlag_putFlag,
    fun p => ⟨rfl, by rw [getFlag_interruptForm]; rfl, by rw [getFlag_interruptForm]; rfl,
      fun f hu hb => by rw [getFlag_interruptForm, if_neg hu, if_neg hb]⟩,
    fun p b => ⟨rfl, by rw [getFlag_pushForm]; rfl, by rw [getFlag_pushForm]; rfl,
      fun f hu hb => by rw [getFlag_pushForm, if_neg (not_or.mpr ⟨hu, hb⟩)],
      rfl, by rw [getFlag_pullForm]; rfl, by rw [getFlag_pullForm]; rfl,
      fun f hu hb => by rw [getFlag_pullForm, if_neg (not_or.mpr ⟨hu, hb⟩)]⟩⟩

end Sys2Proof.Machine

/-! # Flags that no meaning reads (`10_state.md` R25, R26)

Bits 5 and 4 and D are read by no operation but the conversions of the whole byte. `withFlag` of such a flag moves out
through every operation, so an instruction commutes with it. -/

namespace Sys2Proof.Machine

/-- A flag that no operation reads or writes by itself: bit 5, bit 4 and D. -/
def Flag.inert : Flag → Bool
  | .u | .b | .d => true
  | .n | .v | .i | .z | .c => false

@[simp] theorem Flag.inert_n : Flag.n.inert = false := by decide
@[simp] theorem Flag.inert_v : Flag.v.inert = false := by decide
@[simp] theorem Flag.inert_i : Flag.i.inert = false := by decide
@[simp] theorem Flag.inert_z : Flag.z.inert = false := by decide
@[simp] theorem Flag.inert_c : Flag.c.inert = false := by decide

theorem Flag.inert_of_unused {f : Flag} (h : f = .u ∨ f = .b) : f.inert = true := by obtain rfl | rfl := h <;> rfl

/-! ## The status byte -/

theorem putFlag_comm {f g : Flag} (h : f ≠ g) (p : Byte) (v w : Bool) :
    putFlag (putFlag p f v) g w = putFlag (putFlag p g w) f v := by
  apply status_ext
  intro k
  by_cases hg : k = g <;> simp [hg, h.symm]

theorem putFlag_putFlag (p : Byte) (f : Flag) (v w : Bool) : putFlag (putFlag p f v) f w = putFlag p f w := by
  apply status_ext
  intro k
  by_cases hf : k = f <;> simp [hf]

/-- The pushed byte does not depend on bits 5 and 4 of the register. -/
theorem pushForm_putFlag {f : Flag} (h : f = .u ∨ f = .b) (p : Byte) (v : Bool) :
    pushForm (putFlag p f v) = pushForm p := by
  apply status_ext
  intro k
  by_cases hk : k = f <;> simp [hk, h]

/-- Pulling the status byte keeps bits 5 and 4 of the register. -/
theorem pullForm_putFlag_kept {f : Flag} (h : f = .u ∨ f = .b) (p b : Byte) (v : Bool) :
    pullForm (putFlag p f v) b = putFlag (pullForm p b) f v := by
  apply status_ext
  intro k
  by_cases hk : k = f <;> simp [hk, h]

/-- Pulling the status byte takes every other bit from the pulled byte. -/
theorem pullForm_putFlag_pulled {f : Flag} (hu : f ≠ .u) (hb : f ≠ .b) (p b : Byte) (v : Bool) :
    pullForm (putFlag p f v) b = pullForm p b := by
  apply status_ext
  intro k
  by_cases hk : k = f <;> simp [hk, hu, hb]

/-! ## Operations that do not look at the status register -/

section
variable (s : State) (f : Flag) (v : Bool)

@[simp] theorem withFlag_a : (s.withFlag f v).a = s.a := rfl
@[simp] theorem withFlag_x : (s.withFlag f v).x = s.x := rfl
@[simp] theorem withFlag_y : (s.withFlag f v).y = s.y := rfl
@[simp] theorem withFlag_sp : (s.withFlag f v).sp = s.sp := rfl
@[simp] theorem withFlag_pc : (s.withFlag f v).pc = s.pc := rfl
@[simp] theorem withFlag_p : (s.withFlag f v).p = putFlag s.p f v := rfl
@[simp] theorem withFlag_peek (a : Word) : (s.withFlag f v).peek a = s.peek a := rfl

@[simp] theorem withFlag_setA (m : Byte) : (s.withFlag f v).setA m = (s.setA m).withFlag f v := rfl
@[simp] theorem withFlag_setX (m : Byte) : (s.withFlag f v).setX m = (s.setX m).withFlag f v := rfl
@[simp] theorem withFlag_setY (m : Byte) : (s.withFlag f v).setY m = (s.setY m).withFlag f v := rfl
@[simp] theorem withFlag_setSp (m : Byte) : (s.withFlag f v).setSp m = (s.setSp m).withFlag f v := rfl
@[simp] theorem withFlag_setPc (w : Word) : (s.withFlag f v).setPc w = (s.setPc w).withFlag f v := rfl
@[simp] theorem withFlag_setHalted (b : Bool) : (s.withFlag f v).setHalted b = (s.setHalted b).withFlag f v := rfl
@[simp] theorem withFlag_setP (q : Byte) : (s.withFlag f v).setP q = s.setP q := rfl
@[simp] theorem withFlag_noteRead (a : Word) (m : Byte) :
    (s.withFlag f v).noteRead a m = (s.noteRead a m).withFlag f v := rfl
@[simp] theorem withFlag_memWrite (a : Word) (m : Byte) :
    memWrite a m (s.withFlag f v) = (memWrite a m s).withFlag f v := rfl
@[simp] theorem withFlag_push8 (m : Byte) : push8 m (s.withFlag f v) = (push8 m s).withFlag f v := rfl

@[simp] theorem withFlag_resolve_snd (o : Operand) :
    (resolve o (s.withFlag f v)).2 = (resolve o s).2.withFlag f v := by cases o <;> rfl
@[simp] theorem withFlag_effAddr (o : Operand) : effAddr o (s.withFlag f v) = effAddr o s := by cases o <;> rfl
@[simp] theorem withFlag_operandValue (o : Operand) : operandValue o (s.withFlag f v) = operandValue o s := by
  cases o <;> rfl
@[simp] theorem withFlag_afterRead (o : Operand) :
    afterRead o (s.withFlag f v) = (afterRead o s).withFlag f v := by cases o <;> rfl
@[simp] theorem withFlag_operandWrite (o : Operand) (op : Word) (m : Byte) :
    operandWrite o op m (s.withFlag f v) = (operandWrite o op m s).withFlag f v := by cases o <;> rfl

theorem setP_putFlag (q : Byte) : s.setP (putFlag q f v) = (s.setP q).withFlag f v := rfl

/-- Writing a flag forgets what it was. -/
theorem withFlag_putFlag_same (w : Bool) : (s.withFlag f v).putFlag f w = s.putFlag f w :=
  congrArg s.setP (putFlag_putFlag s.p f v w)

/-- Writing one flag commutes with writing another. -/
theorem withFlag_putFlag_of_ne {g : Flag} (h : f ≠ g) (w : Bool) :
    (s.withFlag f v).putFlag g w = (s.putFlag g w).withFlag f v :=
  congrArg s.setP (putFlag_comm h s.p v w)
end

/-! ## Operations that read or write the other flags -/

section
variable {f : Flag} (hf : f.inert = true) (s : State) (v : Bool)
include hf

@[simp] theorem withFlag_flag {g : Flag} (hg : g.inert = false) : (s.withFlag f v).flag g = s.flag g := by
  have hne : g ≠ f := by
    rintro rfl
    simp [hf] at hg
  simp [State.withFlag, hne]

@[simp] theorem withFlag_putFlag {g : Flag} (hg : g.inert = false) (w : Bool) :
    (s.withFlag f v).putFlag g w = (s.putFlag g w).withFlag f v := by
  have hne : f ≠ g := by
    rintro rfl
    simp [hf] at hg
  exact withFlag_putFlag_of_ne s f v hne w

@[simp] theorem withFlag_setNZ (m : Byte) : (s.withFlag f v).setNZ m = (s.setNZ m).withFlag f v := by
  change ((s.withFlag f v).putFlag .n _).putFlag .z _ = ((s.putFlag .n _).putFlag .z _).withFlag f v
  simp [hf]

@[simp] theorem withFlag_compare (r m : Byte) : (s.withFlag f v).compare r m = (s.compare r m).withFlag f v := by
  change (((s.withFlag f v).putFlag .c _).putFlag .z _).putFlag .n _ =
    (((s.putFlag .c _).putFlag .z _).putFlag .n _).withFlag f v
  simp [hf]

@[simp] theorem withFlag_addToA (m : Byte) : (s.withFlag f v).addToA m = (s.addToA m).withFlag f v := by
  simp [State.addToA, hf]

/-- A trap pushes the byte it is given, so the flag stays in the register alone. -/
@[simp] theorem withFlag_takeTrap (r : Word) (st : Byte) (vec : Word) :
    takeTrap r st vec (s.withFlag f v) = (takeTrap r st vec s).withFlag f v := by
  simp [takeTrap, hf]
end

/-! ## The instructions on the whole status byte, and those on D -/

section
variable (s : State) (v : Bool)

theorem execPhp_withFlag {f : Flag} (h : f = .u ∨ f = .b) :
    execPhp (s.withFlag f v) = mapOut (fun t => t.withFlag f v) (execPhp s) := by
  simp [execPhp, mapOut, pushForm_putFlag h]

theorem execBrk_withFlag {f : Flag} (h : f = .u ∨ f = .b) :
    execBrk (s.withFlag f v) = mapOut (fun t => t.withFlag f v) (execBrk s) := by
  simp [execBrk, mapOut, pushForm_putFlag h, Flag.inert_of_unused h]

theorem execPlp_withFlag_kept {f : Flag} (h : f = .u ∨ f = .b) :
    execPlp (s.withFlag f v) = mapOut (fun t => t.withFlag f v) (execPlp s) := by
  simp [execPlp, mapOut, pullForm_putFlag_kept h, setP_putFlag]

theorem execRti_withFlag_kept {f : Flag} (h : f = .u ∨ f = .b) :
    execRti (s.withFlag f v) = mapOut (fun t => t.withFlag f v) (execRti s) := by
  simp [execRti, returnFromTrap, mapOut, pullForm_putFlag_kept h, setP_putFlag]

theorem execPlp_withFlag_pulled {f : Flag} (hu : f ≠ .u) (hb : f ≠ .b) : execPlp (s.withFlag f v) = execPlp s := by
  simp [execPlp, pullForm_putFlag_pulled hu hb]

theorem execRti_withFlag_pulled {f : Flag} (hu : f ≠ .u) (hb : f ≠ .b) : execRti (s.withFlag f v) = execRti s := by
  simp [execRti, returnFromTrap, pullForm_putFlag_pulled hu hb]
end

/-! ## The shapes of an instruction -/

section
variable {f : Flag} {v : Bool} {s : State}

theorem withFlag_next {t u : State} (h : t = u.withFlag f v) :
    (Host.Outcome.next t : Out) = mapOut (fun t => t.withFlag f v) (.next u) := congrArg _ h

theorem withFlag_readingOperand {o : Operand} {k k' : Byte → State → State}
    (hk : ∀ m u, k m (u.withFlag f v) = (k' m u).withFlag f v) :
    readingOperand o k (s.withFlag f v) = mapOut (fun t => t.withFlag f v) (readingOperand o k' s) := by
  simp [readingOperand_eq, mapOut, hk]

theorem withFlag_writingOperand {o : Operand} {m : Byte} :
    writingOperand o m (s.withFlag f v) = mapOut (fun t => t.withFlag f v) (writingOperand o m s) := by
  simp [writingOperand_eq, mapOut]

theorem withFlag_modifyingOperand {o : Operand} {g g' : Byte → Byte} {k : Byte → Byte → State → State} (hg : g = g')
    (hk : ∀ m r u, k m r (u.withFlag f v) = (k m r u).withFlag f v) :
    modifyingOperand o g k (s.withFlag f v) = mapOut (fun t => t.withFlag f v) (modifyingOperand o g' k s) := by
  simp [modifyingOperand_eq, mapOut, hk, hg]

theorem withFlag_ignoringOperand {o : Operand} :
    ignoringOperand o (s.withFlag f v) = mapOut (fun t => t.withFlag f v) (ignoringOperand o s) := by
  simp [ignoringOperand_eq, mapOut]

theorem withFlag_branch {c c' : Bool} {rr : Byte} (hc : c = c') :
    branch c rr (s.withFlag f v) = mapOut (fun t => t.withFlag f v) (branch c' rr s) := by
  subst hc
  exact withFlag_readingOperand fun d u => by cases c <;> simp
end

/-- Changing an inert flag before an instruction is changing it after, but for the instructions that push or pull the whole
status byte and those that write D. -/
theorem exec_withFlag {f : Flag} (hf : f.inert = true) {i : Instr} (hphp : i ≠ .php) (hbrk : i ≠ .brk)
    (hd : writesFlag .d i = false) (s : State) (v : Bool) :
    exec i (s.withFlag f v) = mapOut (fun t => t.withFlag f v) (exec i s) := by
  cases i with dsimp only [exec]
  -- the operand is read
  | lda o | ldx o | ldy o | adc o | sbc o | cmp o | cpx o | cpy o | and o | ora o | eor o
  | lax o | alr ii | anc k ii | arr ii | usb ii | las hhll =>
    exact withFlag_readingOperand fun m u => by simp [hf]
  -- the same, with a register inside a `decide`: `rfl` identifies the decision procedures
  | bit o =>
    refine withFlag_readingOperand fun m u => ?_
    rw [withFlag_putFlag hf _ _ Flag.inert_z, withFlag_putFlag hf _ _ Flag.inert_n,
      withFlag_putFlag hf _ _ Flag.inert_v]
    rfl
  | sbx ii =>
    refine withFlag_readingOperand fun m u => ?_
    dsimp only
    rw [withFlag_putFlag hf _ _ Flag.inert_c, withFlag_setX, withFlag_setNZ hf]
    rfl
  -- the operand is written
  | sta o | stx o | sty o | sax o => exact withFlag_writingOperand
  -- the operand is read and written
  | asl o | lsr o | rol o | ror o | inc o | dec o | dcp o | isc o | slo o | rla o | sre o | rra o =>
    exact withFlag_modifyingOperand (by simp [hf]) fun m r u => by simp [hf]
  -- the operand is resolved only
  | nopu k o | ane ii | lxa ii | sha o | shx hhll | shy hhll | tas hhll => exact withFlag_ignoringOperand
  | bpl rr | bmi rr | bvc rr | bvs rr | bcc rr | bcs rr | bne rr | beq rr => exact withFlag_branch (by simp [hf])
  -- registers, flags, the stack, PC
  | tax | tay | tsx | txa | tya | txs | inx | iny | dex | dey | clc | sec | cli | sei | clv | nop | jam k
  | pha | pla | jmp o | jsr hhll | rts => exact withFlag_next (by simp [hf])
  -- excluded
  | php => exact absurd rfl hphp
  | brk => exact absurd rfl hbrk
  | cld | sed | plp | rti => cases hd

theorem writesFlag_d_iff {i : Instr} : writesFlag .d i = true ↔ i = .cld ∨ i = .sed ∨ i = .plp ∨ i = .rti := by
  cases i <;> simp [writesFlag]

/-- Settles O20: D is inert, PHP and BRK aside; CLD and SED overwrite it, PLP and RTI pull it. -/
theorem decimalFlagChangesNoResult : Obligations.DecimalFlagChangesNoResult := by
  refine ⟨fun i s v hphp hbrk hd => exec_withFlag rfl hphp hbrk hd s v, fun i s v hd => ?_⟩
  obtain rfl | rfl | rfl | rfl := writesFlag_d_iff.mp hd
  · exact congrArg Host.Outcome.next (withFlag_putFlag_same s .d v false)
  · exact congrArg Host.Outcome.next (withFlag_putFlag_same s .d v true)
  · exact execPlp_withFlag_pulled s v (by decide) (by decide)
  · exact execRti_withFlag_pulled s v (by decide) (by decide)

/-- Settles O21: bits 5 and 4 are inert; PHP and BRK push them set, PLP and RTI keep them, CLD and SED write D. -/
theorem unusedStatusBitsAreNotRead : Obligations.UnusedStatusBitsAreNotRead := by
  intro f i s v h
  have hd : f ≠ .d := by obtain rfl | rfl := h <;> decide
  by_cases hphp : i = .php
  · subst hphp
    exact execPhp_withFlag s v h
  by_cases hbrk : i = .brk
  · subst hbrk
    exact execBrk_withFlag s v h
  cases hw : writesFlag .d i with
  | false => exact exec_withFlag (Flag.inert_of_unused h) hphp hbrk hw s v
  | true =>
    obtain rfl | rfl | rfl | rfl := writesFlag_d_iff.mp hw
    · exact withFlag_next (withFlag_putFlag_of_ne s f v hd false)
    · exact withFlag_next (withFlag_putFlag_of_ne s f v hd true)
    · exact execPlp_withFlag_kept s v h
    · exact execRti_withFlag_kept s v h

end Sys2Proof.Machine

/-! # What an instruction does on the bus (`20_memory.md` R51, R67, R68)

The bus record and the memory of a state belong together: memory is the old memory with the recorded writes made in order
(`Transacts`). One split over the instructions, `exec_busFrame`, says which accesses an instruction may make; canonical memory,
the bytes kept and the counts of a tick all follow from it. -/

namespace Sys2Proof.Machine

/-- Where an access writes, if it does. -/
def BusAccess.storedAt : BusAccess → Option Word
  | .read _ _ => none
  | .write a _ => some a

/-- What an access leaves in memory. -/
def BusAccess.store (m : Memory) : BusAccess → Memory
  | .read _ _ => m
  | .write a v => m.write a.toNat v

/-- The addresses that a list of accesses writes, in order. -/
def writtenAddrs (l : List BusAccess) : List Word := l.filterMap BusAccess.storedAt

/-- From `s` to `t` these accesses were made and no others, and memory is what their writes leave. -/
structure Transacts (l : List BusAccess) (s t : State) : Prop where
  bus : Accessed l s t
  mem : t.mem = l.foldl BusAccess.store s.mem

theorem countP_isWrite (l : List BusAccess) : l.countP BusAccess.isWrite = (writtenAddrs l).length := by
  rw [writtenAddrs, List.length_filterMap_eq_countP]
  congr 1
  funext c
  cases c <;> rfl

@[simp] theorem writtenAddrs_append (l r : List BusAccess) : writtenAddrs (l ++ r) = writtenAddrs l ++ writtenAddrs r :=
  List.filterMap_append

theorem wf_foldl_store (l : List BusAccess) (m : Memory) (h : m.wf = true) :
    (l.foldl BusAccess.store m).wf = true := by
  induction l generalizing m with
  | nil => exact h
  | cons c l ih =>
    cases c with
    | read a v => exact ih m h
    | write a v => exact ih _ (Memory.wf_write_word m a v h)

/-- A byte that no access of the list writes reads as before. -/
theorem read_foldl_store (l : List BusAccess) (m : Memory) (b : Word) (h : b ∉ writtenAddrs l) :
    Memory.read (l.foldl BusAccess.store m) b.toNat = m.read b.toNat := by
  induction l generalizing m with
  | nil => rfl
  | cons c l ih =>
    cases c with
    | read a v => exact ih m h
    | write a v =>
      obtain ⟨hne, hl⟩ := List.ne_and_not_mem_of_not_mem_cons h
      rw [List.foldl_cons, ih _ hl, BusAccess.store, Memory.read_write, if_neg (mt BitVec.eq_of_toNat_eq hne)]

theorem foldl_store_of_reads (l : List BusAccess) (m : Memory) (h : writtenAddrs l = []) :
    l.foldl BusAccess.store m = m := by
  induction l with
  | nil => rfl
  | cons c l ih =>
    cases c with
    | read a v => exact ih h
    | write a v => cases h

namespace Transacts

variable {l r : List BusAccess} {s u t : State}

theorem inv (h : Transacts l s t) (hs : Inv s) : Inv t := by
  rw [Inv, h.mem]
  exact wf_foldl_store l s.mem hs

theorem bytesKeptBut (h : Transacts l s t) : BytesKeptBut (writtenAddrs l) s t := by
  intro b hb
  rw [State.peek, h.mem]
  exact read_foldl_store l s.mem b hb

/-- Accesses that only read leave memory as it was. -/
theorem of_reads (hl : writtenAddrs l = []) (hb : Accessed l s t) (hm : t.mem = s.mem) : Transacts l s t :=
  ⟨hb, by rw [hm, foldl_store_of_reads l _ hl]⟩

theorem trans (h : Transacts l s u) (h' : Transacts r u t) : Transacts (l ++ r) s t where
  bus := by rw [Accessed, h'.bus, h.bus, List.reverse_append, List.append_assoc]
  mem := by rw [h'.mem, h.mem, List.foldl_append]

/-- Registers and flags written after the accesses do not matter. -/
theorem of_same (h : Transacts l s u) (hk : t.mem = u.mem ∧ t.bus = u.bus) : Transacts l s t :=
  ⟨hk.2.trans h.bus, hk.1.trans h.mem⟩

end Transacts

/-! ## Operands, the stack and traps -/

@[simp] theorem writtenAddrs_pointerReads (o : Operand) (s : State) : writtenAddrs (pointerReads o s) = [] := by
  cases o <;> rfl

@[simp] theorem writtenAddrs_operandReads (o : Operand) (s : State) : writtenAddrs (operandReads o s) = [] := by
  cases o <;> rfl

theorem writtenAddrs_operandWrites (o : Operand) (v : Byte) (s : State) :
    (writtenAddrs (operandWrites o v s)).Sublist (if o.mode = .acc then [] else [effAddr o s]) := by
  cases o <;> exact .refl _

theorem ite_nil_sublist_self {α : Type} (c : Prop) [Decidable c] (l : List α) : (if c then [] else l).Sublist l := by
  split
  · exact List.nil_sublist l
  · exact .refl l

theorem resolve_transacts (o : Operand) (s : State) : Transacts (pointerReads o s) s (resolve o s).2 :=
  .of_reads (writtenAddrs_pointerReads o s) (resolve_bus o s) (resolve_mem o s)

theorem writtenAddrs_afterRead (o : Operand) (s : State) :
    writtenAddrs (pointerReads o s ++ operandReads o s) = [] := by simp

theorem afterRead_transacts (o : Operand) (s : State) :
    Transacts (pointerReads o s ++ operandReads o s) s (afterRead o s) :=
  .of_reads (writtenAddrs_afterRead o s) (afterRead_bus o s) rfl

theorem operandWrite_transacts (o : Operand) (v : Byte) (s u : State) :
    Transacts (operandWrites o v s) u (operandWrite o (effAddr o s) v u) := by
  cases o <;> exact ⟨rfl, rfl⟩

theorem push8_transacts (v : Byte) (s : State) : Transacts [.write (stackAddr s.sp) v] s (push8 v s) := ⟨rfl, rfl⟩

theorem pushWord_transacts (w : Word) (s : State) :
    Transacts [.write (stackAddr s.sp) (hiByte w), .write (stackAddr (s.sp - 1)) (loByte w)] s (pushWord w s) :=
  (push8_transacts _ s).trans (push8_transacts (loByte w) (push8 (hiByte w) s))

theorem pull8_transacts (s : State) :
    Transacts [.read (stackAddr (s.sp + 1)) (s.peek (stackAddr (s.sp + 1)))] s (pull8 s).2 := ⟨rfl, rfl⟩

theorem pullWord_transacts (s : State) :
    Transacts
      [.read (stackAddr (s.sp + 1)) (s.peek (stackAddr (s.sp + 1))),
        .read (stackAddr (s.sp + 1 + 1)) (s.peek (stackAddr (s.sp + 1 + 1)))] s (pullWord s).2 := ⟨rfl, rfl⟩

theorem returnFromTrap_transacts (s : State) :
    Transacts
      [.read (stackAddr (s.sp + 1)) (s.peek (stackAddr (s.sp + 1))),
        .read (stackAddr (s.sp + 1 + 1)) (s.peek (stackAddr (s.sp + 1 + 1))),
        .read (stackAddr (s.sp + 1 + 1 + 1)) (s.peek (stackAddr (s.sp + 1 + 1 + 1)))] s (returnFromTrap s) :=
  ⟨returnFromTrap_bus s, returnFromTrap_mem s⟩

theorem takeTrap_transacts (r : Word) (st : Byte) (vec : Word) (s : State) :
    Transacts
      [.write (stackAddr s.sp) (hiByte r), .write (stackAddr (s.sp - 1)) (loByte r),
        .write (stackAddr (s.sp - 1 - 1)) st, .read vec ((takeTrap r st vec s).peek vec),
        .read (vec + 1) ((takeTrap r st vec s).peek (vec + 1))]
      s (takeTrap r st vec s) :=
  ⟨takeTrap_bus r st vec s, takeTrap_mem r st vec s⟩

theorem byte_sub_one_sub_one (b : Byte) : b - 1 - 1 = b - 2 := by bv_omega

theorem byte_add_one_add_one (b : Byte) : b + 1 + 1 = b + 2 := by bv_omega

/-! ## Counts -/

theorem operandBytesRead_le_two (m : Mode) : operandBytesRead m ≤ 2 := by cases m <;> decide

/-- The instruction bytes read before the execute step and the pointer reads of the mode are five accesses at most, and
five in the indirect mode only. -/
theorem resolve_accesses (o : Operand) (s : State) :
    1 + operandBytesRead o.mode + (pointerReads o s).length ≤ 5 := by
  cases o <;> simp [operandBytesRead, pointerReads, Operand.mode]

theorem resolve_accesses_of_ne_ind (o : Operand) (s : State) (h : o.mode ≠ .ind) :
    1 + operandBytesRead o.mode + (pointerReads o s).length ≤ 4 := by
  cases o with
  | ind w => exact absurd rfl h
  | _ => simp [operandBytesRead, pointerReads, Operand.mode]

theorem operandReads_length (o : Operand) (s : State) : (operandReads o s).length ≤ 1 := by
  cases o <;> simp [operandReads]

theorem operandWrites_length (o : Operand) (v : Byte) (s : State) : (operandWrites o v s).length ≤ 1 := by
  cases o <;> simp [operandWrites]

/-! ## Decoded instructions are well formed -/

/-- Only JMP has the indirect mode (`30_encoding.md` R86). -/
theorem eq_jmp_of_mode_ind {i : Instr} (hwf : i.wf = true) (hm : i.operand.mode = .ind) : ∃ o, i = .jmp o := by
  cases i with
  | jmp o => exact ⟨o, rfl⟩
  | lda o | ldx o | ldy o | sta o | stx o | sty o | adc o | sbc o | cmp o | cpx o | cpy o | and o | ora o | eor o | bit o
  | asl o | lsr o | rol o | ror o | inc o | dec o | nopu k o | lax o | sax o | dcp o | isc o | slo o | rla o | sre o | rra o
  | sha o =>
    replace hm : o.mode = .ind := hm
    simp [Instr.wf, hm, accumulatorModes, shiftModes, compositeModes, nopuCount] at hwf
  | _ => cases hm

/-- Every cell of the opcode matrix makes well-formed instructions. -/
theorem matrix_wf : ∀ row ∈ opcodeMatrix, ∀ e ∈ row, ∀ b1 b2, (e.build b1 b2).wf = true := by
  intro row hrow e he b1 b2
  fin_cases hrow <;> fin_cases he <;> rfl

theorem instrOf_wf (opcode b1 b2 : Byte) : (instrOf opcode b1 b2).wf = true := by
  have hlen : ∀ row ∈ opcodeMatrix, row.length = 16 := by decide
  have hrow : opcodeMatrix.getD (opcode.toNat / 16) [] ∈ opcodeMatrix := by
    rw [List.getD_eq_getElem _ _ (show opcode.toNat / 16 < 16 by omega)]
    exact List.getElem_mem _
  have hcol : opcode.toNat % 16 < (opcodeMatrix.getD (opcode.toNat / 16) []).length := by
    rw [hlen _ hrow]
    omega
  have he : tableEntry opcode ∈ opcodeMatrix.getD (opcode.toNat / 16) [] := by
    rw [tableEntry, List.getD_eq_getElem _ (implied .nop) hcol]
    exact List.getElem_mem _
  exact matrix_wf _ hrow _ he b1 b2

/-! ## The instructions -/

/-- What instruction `i` may do on the bus from `s` to `t`: it writes where it stores to at most, each place once, and makes
at most six accesses together with its fetch. Only the count needs `i` to be well formed: a read-modify-write through an
indirect jump's pointer, which the machine does not have, would make seven. -/
def BusFrame (i : Instr) (s t : State) : Prop :=
  ∃ l, Transacts l s t ∧ (writtenAddrs l).Sublist (bytesWritten i s) ∧
    (i.wf = true → 1 + operandBytesRead i.operand.mode + l.length ≤ 6)

namespace BusFrame

variable {i : Instr} {s u t : State}

theorem of_next {l : List BusAccess} (h : Host.Outcome.next (φ := Fault) (ρ := Refusal) u = .next t)
    (hu : Transacts l s u) (hl : (writtenAddrs l).Sublist (bytesWritten i s))
    (hn : i.wf = true → 1 + operandBytesRead i.operand.mode + l.length ≤ 6 := by
      exact fun _ => Nat.le_of_ble_eq_true rfl) : BusFrame i s t := by
  cases h
  exact ⟨l, hu, hl, hn⟩

/-- An instruction that writes nothing. -/
theorem of_noWrites {l : List BusAccess} (h : Host.Outcome.next (φ := Fault) (ρ := Refusal) u = .next t)
    (hu : Transacts l s u) (hl : writtenAddrs l = [])
    (hn : 1 + operandBytesRead i.operand.mode + l.length ≤ 6 := by exact Nat.le_of_ble_eq_true rfl) : BusFrame i s t :=
  of_next h hu (hl ▸ List.nil_sublist _) fun _ => hn

/-- An instruction without a bus access of its own. -/
theorem of_silent (h : Host.Outcome.next (φ := Fault) (ρ := Refusal) u = .next t)
    (hu : u.mem = s.mem ∧ u.bus = s.bus := by exact ⟨rfl, rfl⟩) : BusFrame i s t := by
  refine of_noWrites h (l := []) (.of_same ⟨rfl, rfl⟩ hu) rfl ?_
  have := operandBytesRead_le_two i.operand.mode
  simp only [List.length_nil]
  omega

theorem of_resolve {o : Operand} (h : Host.Outcome.next (φ := Fault) (ρ := Refusal) u = .next t)
    (hu : u.mem = (resolve o s).2.mem ∧ u.bus = (resolve o s).2.bus := by exact ⟨rfl, rfl⟩)
    (ho : i.operand = o := by rfl) : BusFrame i s t := by
  subst ho
  exact of_noWrites h ((resolve_transacts i.operand s).of_same hu) (writtenAddrs_pointerReads _ s)
    ((resolve_accesses i.operand s).trans (by decide))

theorem of_reads {o : Operand} {k : Byte → State → State} (h : readingOperand o k s = .next t)
    (hk : ∀ m u, (k m u).mem = u.mem ∧ (k m u).bus = u.bus := by exact fun _ _ => ⟨rfl, rfl⟩)
    (ho : i.operand = o := by rfl) : BusFrame i s t := by
  subst ho
  rw [readingOperand_eq] at h
  refine of_noWrites h ((afterRead_transacts i.operand s).of_same (hk _ _)) (writtenAddrs_afterRead _ s) ?_
  have := resolve_accesses i.operand s
  have := operandReads_length i.operand s
  rw [List.length_append]
  omega

theorem of_branch {c : Bool} {rr : Byte} (h : branch c rr s = .next t) (ho : i.operand = .rel rr := by rfl) :
    BusFrame i s t :=
  of_reads h (fun _ _ => by cases c <;> exact ⟨rfl, rfl⟩) ho

theorem of_writes {o : Operand} {v : Byte} (h : writingOperand o v s = .next t)
    (hb : bytesWritten i s = [effAddr o s] := by rfl) (ho : i.operand = o := by rfl) : BusFrame i s t := by
  subst ho
  refine of_next h ((resolve_transacts i.operand s).trans (operandWrite_transacts _ v s _)) ?_ fun _ => ?_
  · rw [writtenAddrs_append, writtenAddrs_pointerReads, List.nil_append, hb]
    exact (writtenAddrs_operandWrites _ v s).trans (ite_nil_sublist_self _ _)
  · have := resolve_accesses i.operand s
    have := operandWrites_length i.operand v s
    rw [List.length_append]
    omega

theorem of_modifies {o : Operand} {f : Byte → Byte} {k : Byte → Byte → State → State}
    (h : modifyingOperand o f k s = .next t)
    (hk : ∀ m r u, (k m r u).mem = u.mem ∧ (k m r u).bus = u.bus := by exact fun _ _ _ => ⟨rfl, rfl⟩)
    (hb : (if o.mode = .acc then [] else [effAddr o s]).Sublist (bytesWritten i s) := by exact List.Sublist.refl _)
    (hj : ∀ o, i ≠ .jmp o := by nofun) (ho : i.operand = o := by rfl) : BusFrame i s t := by
  subst ho
  rw [modifyingOperand_eq] at h
  refine of_next h
    (((afterRead_transacts i.operand s).trans (operandWrite_transacts _ _ s _)).of_same (hk _ _ _)) ?_ fun hwf => ?_
  · rw [writtenAddrs_append, writtenAddrs_afterRead, List.nil_append]
    exact (writtenAddrs_operandWrites _ _ s).trans hb
  · have hind : i.operand.mode ≠ .ind := fun hm => (eq_jmp_of_mode_ind hwf hm).elim hj
    have := resolve_accesses_of_ne_ind i.operand s hind
    have := operandReads_length i.operand s
    have := operandWrites_length i.operand (f (operandValue i.operand s)) s
    rw [List.length_append, List.length_append]
    omega

end BusFrame

/-- What every instruction may do on the bus. -/
theorem exec_busFrame {i : Instr} {s t : State} (h : exec i s = .next t) : BusFrame i s t := by
  cases i with dsimp only [exec] at h
  | lda o | ldx o | ldy o | adc o | sbc o | cmp o | cpx o | cpy o | and o | ora o | eor o | bit o
  | lax o | alr ii | anc k ii | arr ii | sbx ii | usb ii | las hhll => exact .of_reads h
  | bpl rr | bmi rr | bvc rr | bvs rr | bcc rr | bcs rr | bne rr | beq rr => exact .of_branch h
  | sta o | stx o | sty o | sax o => exact .of_writes h
  | asl o | lsr o | rol o | ror o => exact .of_modifies h
  | inc o | dec o | dcp o | isc o | slo o | rla o | sre o | rra o =>
    exact .of_modifies h (hb := ite_nil_sublist_self _ _)
  | nopu k o | ane ii | lxa ii | sha o | shx hhll | shy hhll | tas hhll | jmp o => exact .of_resolve h
  | tax | tay | tsx | txa | tya | txs | inx | iny | dex | dey | clc | sec | cli | sei | cld | sed | clv | nop
  | jam k => exact .of_silent h
  | pha | php => exact .of_next h (push8_transacts _ s) (.refl _)
  | jsr hhll => exact .of_next h ((pushWord_transacts _ s).of_same ⟨rfl, rfl⟩) (.refl _)
  | brk =>
    refine .of_next h (takeTrap_transacts _ _ _ s) ?_
    rw [bytesWritten, ← byte_sub_one_sub_one]
    exact .refl _
  | pla | plp => exact .of_noWrites h ((pull8_transacts s).of_same ⟨rfl, rfl⟩) rfl
  | rts => exact .of_noWrites h ((pullWord_transacts s).of_same ⟨rfl, rfl⟩) rfl
  | rti => exact .of_noWrites h (returnFromTrap_transacts s) rfl

end Sys2Proof.Machine

/-! # Canonical memory, the bytes an instruction stores to, the accesses of a tick -/

namespace Sys2Proof.Machine

/-- Settles O11: no cell is listed at reset. -/
theorem resetMemoryIsCanonical : Obligations.ResetMemoryIsCanonical := by
  change Memory.wf [] = true
  rfl

theorem exec_inv {i : Instr} {s t : State} (hs : Inv s) (h : exec i s = .next t) : Inv t := by
  obtain ⟨l, hl, -, -⟩ := exec_busFrame h
  exact hl.inv hs

theorem step_inv {s t : State} (hs : Inv s) (h : step s = .next t) : Inv t := by
  cases hh : s.halted with
  | true =>
    rw [step_halted s hh] at h
    cases h
    exact hs
  | false =>
    rw [step_running s hh] at h
    exact exec_inv (by rwa [Inv, fetched_mem]) h

theorem interruptEntry_inv {vector : Word} {s : State} (hs : Inv s) : Inv (interruptEntry vector s) :=
  takeTrap_wf _ _ _ _ hs

/-- Settles O12: a tick makes bus writes only, interrupt entry pushes three bytes, reset() writes nothing. -/
theorem everyStepKeepsCanonicalMemory : Obligations.EveryStepKeepsCanonicalMemory := by
  refine ⟨fun s t hs h => step_inv hs h, fun i s t hs h => ?_⟩
  cases i with
  | reset =>
    cases h
    exact hs
  | tick => exact step_inv hs h
  | irq =>
    cases h
    split
    · exact hs
    · exact interruptEntry_inv hs
  | nmi =>
    cases h
    split
    · exact hs
    · exact interruptEntry_inv hs

/-- Settles O19: a byte that changed was written by an access, and the accesses write where the instruction stores. -/
theorem memoryChangesOnlyWhereStored : Obligations.MemoryChangesOnlyWhereStored := by
  intro i s t h b hb
  obtain ⟨l, hl, hsub, -⟩ := exec_busFrame h
  exact hl.bytesKeptBut b fun hbl => hb (hsub.subset hbl)

theorem fetchReads_length (m : Mode) (s : State) : (fetchReads m s).length = 1 + operandBytesRead m := by
  cases m <;> rfl

@[simp] theorem writtenAddrs_fetchReads (m : Mode) (s : State) : writtenAddrs (fetchReads m s) = [] := by
  cases m <;> rfl

theorem bytesWritten_length (i : Instr) (s : State) : (bytesWritten i s).length ≤ writesAllowed i := by
  cases i with
  | asl o | lsr o | rol o | ror o => exact (ite_nil_sublist_self (o.mode = .acc) [effAddr o s]).length_le
  | _ => exact Nat.le_of_ble_eq_true rfl

/-- Settles O8: the fetch reads one to three bytes and writes none; the execute step makes the accesses of its frame. -/
theorem tickMakesOneToSixAccesses : Obligations.TickMakesOneToSixAccesses := by
  intro s t hs h
  rw [step_running s hs] at h
  obtain ⟨l, hl, hsub, hlen⟩ := exec_busFrame h
  refine ⟨l.reverse ++ (fetchReads (instrAt s).operand.mode s).reverse, ?_, ?_, ?_, ?_⟩
  · rw [hl.bus, fetched_bus, List.append_assoc]
  · simp only [List.length_append, List.length_reverse, fetchReads_length]
    omega
  · have := hlen (instrOf_wf _ _ _)
    simp only [List.length_append, List.length_reverse, fetchReads_length]
    omega
  · calc (l.reverse ++ (fetchReads (instrAt s).operand.mode s).reverse).countP BusAccess.isWrite
        = (writtenAddrs l).length := by simp [countP_isWrite]
      _ ≤ (bytesWritten (instrAt s) (fetched (instrAt s).operand.mode s)).length := hsub.length_le
      _ ≤ writesAllowed (instrAt s) := bytesWritten_length _ _

end Sys2Proof.Machine

/-! # The 16-bit fetches and the stack (`20_memory.md` R53, R54, R59) -/

namespace Sys2Proof.Machine

theorem word_toNat (hi lo : Byte) : (word hi lo).toNat = hi.toNat * 256 + lo.toNat := by
  have := hi.isLt; have := lo.isLt
  rw [word, BitVec.toNat_ofNat, Nat.mod_eq_of_lt (by omega)]

theorem hiByte_eq_extractLsb' (w : Word) : hiByte w = w.extractLsb' 8 8 := by
  apply BitVec.eq_of_toNat_eq
  simp [hiByte, Nat.shiftRight_eq_div_pow]

theorem loByte_eq_setWidth (w : Word) : loByte w = w.setWidth 8 := by
  apply BitVec.eq_of_toNat_eq
  simp [loByte]

theorem word_ext {w w' : Word} (hhi : hiByte w = hiByte w') (hlo : loByte w = loByte w') : w = w' := by
  rw [← word_hiByte_loByte w, ← word_hiByte_loByte w', hhi, hlo]

theorem byte_and_255 (b : Byte) : b &&& 255#8 = b := BitVec.and_allOnes

/-- The successor in the page, as R54 writes it. -/
theorem nextInPage_eq (a : Word) : (a &&& 0xFF00) ||| ((a + 1) &&& 0x00FF) = nextInPage a := by
  apply word_ext
  · rw [hiByte_nextInPage, hiByte_eq_extractLsb', hiByte_eq_extractLsb', BitVec.extractLsb'_or,
      BitVec.extractLsb'_and, BitVec.extractLsb'_and]
    simp [byte_and_255]
  · rw [nextInPage, loByte_word, loByte_eq_setWidth, loByte_eq_setWidth, BitVec.setWidth_or, BitVec.setWidth_and,
      BitVec.setWidth_and, BitVec.setWidth_add _ _ (by decide)]
    simp [byte_and_255]

/-- Settles O22: both fetches are a pair of reads, the high byte at the wrapped address. -/
theorem sixteenBitFetches : Obligations.SixteenBitFetches := by
  refine ⟨word_toNat, fun z s => ⟨rfl, rfl⟩, fun a s => ?_⟩
  rw [nextInPage_eq]
  exact ⟨rfl, rfl⟩

theorem stackAddr_toNat (sp : Byte) : (stackAddr sp).toNat = 0x0100 + sp.toNat := by
  have := sp.isLt
  rw [stackAddr, BitVec.toNat_add, zext16_toNat]
  change (256 + sp.toNat) % 65536 = _
  omega

/-- An operation on the stack changes S, memory and the bus record only. -/
theorem keeps_of_stack {s t : State} (ha : t.a = s.a) (hx : t.x = s.x) (hy : t.y = s.y) (hp : t.p = s.p)
    (hh : t.halted = s.halted) : Keeps [.sp] [] s t := by
  refine ⟨fun r hr => ?_, fun f _ => by rw [State.flag, hp]; rfl, hh⟩
  cases r with
  | a => exact ha
  | x => exact hx
  | y => exact hy
  | sp => exact absurd (List.mem_singleton.mpr rfl) hr

/-- Settles O23: the accesses of a push and a pull give the bytes and the bus record; the rest is by definition. -/
theorem stackPrimitives : Obligations.StackPrimitives := by
  refine ⟨stackAddr_toNat, fun v s => ?_, fun s => ?_, fun w s => ?_, fun s => ?_⟩
  · have h := push8_transacts v s
    exact ⟨by simp, rfl, keeps_of_stack rfl rfl rfl rfl rfl, rfl, h.bytesKeptBut, h.bus⟩
  · exact ⟨rfl, rfl, keeps_of_stack rfl rfl rfl rfl rfl, rfl, fun _ => rfl, rfl⟩
  · have h := pushWord_transacts w s
    have hne : stackAddr s.sp ≠ stackAddr (s.sp - 1) := mt (stackAddr_inj _ _).mp (by bv_omega)
    have hhi : (pushWord w s).peek (stackAddr s.sp) = hiByte w := by
      rw [pushWord_eq, push8_peek, push8_sp, if_neg hne, push8_peek, if_pos rfl]
    exact ⟨hhi, by simp, byte_sub_one_sub_one s.sp, keeps_of_stack rfl rfl rfl rfl rfl, rfl, h.bytesKeptBut, h.bus⟩
  · rw [← byte_add_one_add_one]
    exact ⟨rfl, rfl, keeps_of_stack rfl rfl rfl rfl rfl, rfl, fun _ => rfl, rfl⟩

end Sys2Proof.Machine

/-! # Decoder and encoder are inverse (`30_encoding.md` R80 to R88)

`decode_eq_ok_iff` says once what decoding answers: an opcode byte and as many operand bytes as its table entry has. The
matrix of R84 and the table by mnemonic of R86 then agree in both directions: `opcodeOf_instrOf` and `operand_instrOf`
read the matrix off cell by cell, `instrOfBytes_of_opcodeOf` reads the mnemonics off. -/

namespace Sys2Proof.Machine

/-! ## Operands and their bytes -/

/-- The instruction of an opcode byte and a list of operand bytes, 0 where there is none. -/
def instrOfBytes (opcode : Byte) (args : List Byte) : Instr := instrOf opcode (args.getD 0 0) (args.getD 1 0)

theorem operandOf_bytes (o : Operand) : operandOf o.mode (o.bytes.getD 0 0) (o.bytes.getD 1 0) = o := by
  cases o with
  | abs w | absx w | absy w | ind w => exact congrArg _ (word_hiByte_loByte w)
  | _ => rfl

theorem bytes_operandOf (m : Mode) (b1 b2 : Byte) : (operandOf m b1 b2).bytes = [b1, b2].take m.operandLength := by
  cases m <;> simp [operandOf, Operand.bytes, Mode.operandLength]

@[simp] theorem mode_operandOf (m : Mode) (b1 b2 : Byte) : (operandOf m b1 b2).mode = m := by cases m <;> rfl

theorem operandBytes_length (o : Operand) : o.bytes.length = o.mode.operandLength := by cases o <;> rfl

/-- Operand bytes as many as a mode has are the bytes of the operand they make. -/
theorem bytes_operandOf_getD {m : Mode} {args : List Byte} (h : args.length = m.operandLength) :
    (operandOf m (args.getD 0 0) (args.getD 1 0)).bytes = args := by
  rw [bytes_operandOf, ← h]
  match args, h ▸ operandLength_le_two m with
  | [], _ | [_], _ | [_, _], _ => rfl

/-! ## What decoding answers -/

theorem decode_eq_ok_iff {bytes rest : List Byte} {i : Instr} :
    decode bytes = .ok (i, rest) ↔ ∃ opcode args, args.length = (tableEntry opcode).mode.operandLength ∧
      bytes = opcode :: args ++ rest ∧ i = instrOfBytes opcode args := by
  constructor
  · intro h
    cases bytes with
    | nil => cases h
    | cons opcode tail =>
      unfold decode at h
      dsimp only at h
      split at h
      next hlen => cases h; exact ⟨opcode, [], hlen.symm, rfl, rfl⟩
      next b1 _ hlen => cases h; exact ⟨opcode, [b1], hlen.symm, rfl, rfl⟩
      next b1 b2 _ hlen => cases h; exact ⟨opcode, [b1, b2], hlen.symm, rfl, rfl⟩
      next => cases h
  · rintro ⟨opcode, args, hlen, rfl, rfl⟩
    match args, hlen ▸ operandLength_le_two (tableEntry opcode).mode with
    | [], _ => exact decode_length_zero opcode rest hlen.symm
    | [b1], _ => exact decode_length_one opcode b1 rest hlen.symm
    | [b1, b2], _ => exact decode_length_two opcode b1 b2 rest hlen.symm

theorem encode_eq_some_iff {i : Instr} {bytes : List Byte} :
    encode i = some bytes ↔ ∃ opcode, opcodeOf i = some opcode ∧ opcode :: i.operand.bytes = bytes :=
  Option.map_eq_some_iff

/-! ## From the matrix to the mnemonics -/

/-- Two functions of a byte are equal when they agree on the sixteen rows of the matrix. -/
theorem forall_byte_of_rows {α : Type} {f g : Byte → α}
    (h : ∀ row : Fin 16, (List.range 16).map (fun col => f (BitVec.ofNat 8 (16 * row + col))) =
      (List.range 16).map (fun col => g (BitVec.ofNat 8 (16 * row + col)))) (b : Byte) : f b = g b := by
  have hcell := List.map_inj_left.mp (h ⟨b.toNat / 16, by omega⟩) (b.toNat % 16) (List.mem_range.mpr (by omega))
  simpa only [Nat.div_add_mod, BitVec.ofNat_toNat, BitVec.setWidth_eq] using hcell

/-- Each cell of the matrix makes an instruction whose opcode byte is the cell's place. -/
theorem opcodeOf_instrOf (opcode b1 b2 : Byte) : opcodeOf (instrOf opcode b1 b2) = some opcode := by
  refine forall_byte_of_rows (f := fun b => opcodeOf (instrOf b b1 b2)) (fun row => ?_) opcode
  fin_cases row <;> rfl

/-- Each cell of the matrix makes an instruction with the operand of the cell's mode. -/
theorem operand_instrOf (opcode b1 b2 : Byte) :
    (instrOf opcode b1 b2).operand = operandOf (tableEntry opcode).mode b1 b2 := by
  refine forall_byte_of_rows (f := fun b => (instrOf b b1 b2).operand)
    (g := fun b => operandOf (tableEntry b).mode b1 b2) (fun row => ?_) opcode
  fin_cases row <;> rfl

theorem mode_instrOf (opcode b1 b2 : Byte) : (instrOf opcode b1 b2).operand.mode = (tableEntry opcode).mode := by
  rw [operand_instrOf, mode_operandOf]

/-! ## From the mnemonics to the matrix -/

/-- The encoder is defined on the well-formed instructions. -/
theorem encode_isSome (i : Instr) : (encode i).isSome = i.wf := by
  cases i with
  | lda o | ldx o | ldy o | sta o | stx o | sty o | adc o | sbc o | cmp o | cpx o | cpy o | and o | ora o | eor o | bit o
  | asl o | lsr o | rol o | ror o | inc o | dec o | jmp o | lax o | sax o | dcp o | isc o | slo o | rla o | sre o | rra o
  | sha o => exact Laws.EncodeDefined.operandForm _ (fun o => by cases o <;> rfl) o
  | jam k => exact Laws.EncodeDefined.jam k
  | nopu k o => exact Laws.EncodeDefined.nopu k o
  | anc k ii => exact Laws.EncodeDefined.anc k ii
  | _ => rfl

/-- The cell at the opcode byte of an instruction with an operand makes it back from the operand's bytes. -/
theorem instrOfBytes_of_entry {f : Operand → Instr} {o : Operand} {opcode : Byte}
    (h : tableEntry opcode = operandOp f o.mode) : instrOfBytes opcode o.bytes = f o := by
  rw [instrOfBytes, instrOf, h]
  exact congrArg f (operandOf_bytes o)

/-- So does the cell of each row of its lookup, when the rows stand in the matrix. -/
theorem instrOfBytes_of_lookup {f : Operand → Instr} {rows : List (Mode × Byte)} {o : Operand} {opcode : Byte}
    (h : rows.lookup o.mode = some opcode) (hrows : (rows.map Prod.fst).Nodup)
    (htable : rows.map (fun r => tableEntry r.2) = rows.map (fun r => operandOp f r.1)) :
    instrOfBytes opcode o.bytes = f o :=
  instrOfBytes_of_entry (List.map_inj_left.mp htable _ ((lookup_eq_some_iff_mem rows hrows _ _).mp h))

theorem tableEntry_nopu {m : Mode} {k : Fin 6} {opcode : Byte} (h : (nopuBytes m)[k.val]? = some opcode) :
    tableEntry opcode = operandOp (.nopu k) m := by
  cases m <;> fin_cases k <;> cases h <;> rfl

/-- Each instruction stands in the matrix at its opcode byte. -/
theorem instrOfBytes_of_opcodeOf {i : Instr} {opcode : Byte} (h : opcodeOf i = some opcode) :
    instrOfBytes opcode i.operand.bytes = i := by
  cases i with
  | lda o | ldx o | ldy o | sta o | stx o | sty o | adc o | sbc o | cmp o | cpx o | cpy o | and o | ora o | eor o | bit o
  | asl o | lsr o | rol o | ror o | inc o | dec o | jmp o | lax o | sax o | dcp o | isc o | slo o | rla o | sre o | rra o
  | sha o => exact instrOfBytes_of_lookup h (by decide) rfl
  | nopu k o => exact instrOfBytes_of_entry (tableEntry_nopu h)
  | jam k | anc k ii => fin_cases k <;> cases h <;> rfl
  | jsr w | las w | shx w | shy w | tas w =>
    cases h
    exact congrArg _ (word_hiByte_loByte w)
  | _ =>
    cases h
    rfl

/-- The operand bytes of an instruction are as many as the entry at its opcode byte says. -/
theorem operandBytes_length_of_opcodeOf {i : Instr} {opcode : Byte} (h : opcodeOf i = some opcode) :
    i.operand.bytes.length = (tableEntry opcode).mode.operandLength := by
  rw [operandBytes_length, ← instrOfBytes_of_opcodeOf h, instrOfBytes, mode_instrOf]

/-! ## The obligations -/

/-- Settles O2: a well-formed instruction has an opcode byte, and at that byte the matrix makes it back. -/
theorem decodeOfEncodeIsTheInstruction : Obligations.DecodeOfEncodeIsTheInstruction := by
  intro i hwf
  obtain ⟨bytes, hbytes⟩ := Option.isSome_iff_exists.mp ((encode_isSome i).trans hwf)
  obtain ⟨opcode, hop, rfl⟩ := encode_eq_some_iff.mp hbytes
  refine ⟨_, hbytes, ?_, fun rest => decode_eq_ok_iff.mpr ?_⟩
  · rw [List.length_cons, operandBytes_length, Instr.length, Nat.add_comm]
  · exact ⟨opcode, i.operand.bytes, operandBytes_length_of_opcodeOf hop, rfl, (instrOfBytes_of_opcodeOf hop).symm⟩

/-- Settles O3: the decoded instruction has the opcode byte it was decoded from, and the operand bytes. -/
theorem encodeOfDecodeIsTheBytes : Obligations.EncodeOfDecodeIsTheBytes := by
  intro bytes rest i h
  obtain ⟨opcode, args, hlen, hbytes, rfl⟩ := decode_eq_ok_iff.mp h
  refine ⟨instrOf_wf _ _ _, opcode :: args, encode_eq_some_iff.mpr ⟨opcode, opcodeOf_instrOf _ _ _, ?_⟩, hbytes⟩
  rw [instrOfBytes, operand_instrOf, bytes_operandOf_getD hlen]

/-- Settles O4: the entry's mode takes as many of the two operand bytes as it has. -/
theorem opcodeByteDeterminesLength : Obligations.OpcodeByteDeterminesLength := by
  intro opcode
  have hle := operandLength_le_two (tableEntry opcode).mode
  refine ⟨_, rfl, by omega, by omega, fun b1 b2 rest => ?_⟩
  have hlen : ([b1, b2].take (tableEntry opcode).mode.operandLength).length = (tableEntry opcode).mode.operandLength :=
    List.length_take_of_le hle
  have hbytes : b1 :: b2 :: rest = [b1, b2].take (tableEntry opcode).mode.operandLength ++
      (b1 :: b2 :: rest).drop (tableEntry opcode).mode.operandLength := by
    rw [← List.take_append_of_le_length (l₂ := rest) hle]
    exact (List.take_append_drop _ _).symm
  refine ⟨instrOfBytes opcode _, ?_, decode_eq_ok_iff.mpr ⟨opcode, _, hlen, ?_, rfl⟩⟩
  · rw [Instr.length, instrOfBytes, mode_instrOf]
  · rw [Nat.add_comm, List.drop_succ_cons, List.cons_append, ← hbytes]

/-- Settles O1: each word decoded by the table. -/
theorem shownBytesDecode : Obligations.ShownBytesDecode :=
  ⟨rfl, rfl, rfl, rfl, rfl, rfl, rfl, rfl⟩

end Sys2Proof.Machine

/-! # Effective addresses, the Jammed state and the tick (`40_tick_and_addressing.md` R100 to R117) -/

namespace Sys2Proof.Machine

/-! ## Effective addresses as numbers -/

theorem byte_add_one_toNat (b : Byte) : (b + 1).toNat = (b.toNat + 1) % 256 := BitVec.toNat_add b 1

/-- The address after an indexed zero-page address wraps in the zero page too. -/
theorem byte_add_add_one_toNat (b c : Byte) : (b + c + 1).toNat = (b.toNat + c.toNat + 1) % 256 := by
  rw [byte_add_one_toNat, BitVec.toNat_add]
  exact Nat.mod_add_mod _ _ _

/-- The successor of an address in its page: the page stays, the byte in the page wraps (`20_memory.md` R54). -/
theorem nextInPage_toNat (w : Word) : (nextInPage w).toNat = w.toNat / 256 * 256 + (w.toNat + 1) % 256 := by
  have := w.isLt
  simp only [nextInPage, word_toNat, byte_add_one_toNat, hiByte, loByte, BitVec.toNat_ofNat]
  omega

/-- The bus at a zero-page address. -/
theorem peek_zext16 (s : State) (b : Byte) : s.peek (zext16 b) = s.mem.read b.toNat := by
  rw [State.peek, zext16_toNat]

/-- An indexed 16-bit address wraps modulo 65536. -/
theorem add_zext16_toNat (w : Word) (b : Byte) : (w + zext16 b).toNat = (w.toNat + b.toNat) % 65536 := by
  rw [BitVec.toNat_add, zext16_toNat]

/-- A 16-bit quantity with its low byte first, as the rules of the pointer modes write it. -/
theorem word_toNat_low_first (hi lo : Byte) : (word hi lo).toNat = lo.toNat + 256 * hi.toNat := by
  rw [word_toNat]
  omega

/-- Settles O24: the address of each mode from the model's equation for it, its sums and its pointer read as numbers. -/
theorem effectiveAddresses : Obligations.EffectiveAddresses := by
  refine ⟨fun a s => ⟨read16_fst a s, rfl⟩, fun zz w s => ⟨effAddr_imm zz s, effAddr_rel zz s, zext16_toNat zz,
    ?zpgx, ?zpgy, effAddr_abs w s, add_zext16_toNat w s.x, add_zext16_toNat w s.y, ?ind, ?indx, ?indy⟩⟩
  case zpgx => rw [effAddr_zpgx, zext16_toNat, BitVec.toNat_add]
  case zpgy => rw [effAddr_zpgy, zext16_toNat, BitVec.toNat_add]
  case ind => rw [effAddr_ind, word_toNat_low_first, State.peek, State.peek, nextInPage_toNat]
  case indx =>
    rw [effAddr_indx, word_toNat_low_first, peek_zext16, peek_zext16, byte_add_add_one_toNat, BitVec.toNat_add]
  case indy =>
    rw [effAddr_indy, add_zext16_toNat, word_toNat_low_first, peek_zext16, peek_zext16, byte_add_one_toNat]

/-! ## The Jammed state -/

/-- A Jammed machine ignores every host input but reset(). -/
theorem applyInput_of_halted {i : HostInput} {s : State} (hs : s.halted = true) (hi : i ≠ .reset) :
    applyInput i s = .next s := by
  cases i with
  | reset => exact absurd rfl hi
  | tick => exact step_halted s hs
  | irq => simp [applyInput, irqInput, Config.interruptPolicy, hs]
  | nmi => simp [applyInput, nmiInput, Config.interruptPolicy, hs]

theorem runInputs_cons_of_next {i : HostInput} {s t : State} (h : applyInput i s = .next t) (is : List HostInput) :
    runInputs (i :: is) s = runInputs is t := by
  rw [runInputs, h]

/-- Settles O15: each input without effect leaves the run where it began; reset() writes Running. -/
theorem jammedUntilReset : Obligations.JammedUntilReset := by
  refine ⟨fun inputs s hr hs => ?_, fun s => ⟨resetInput s, rfl, rfl⟩⟩
  induction inputs with
  | nil => rfl
  | cons i is ih =>
    obtain ⟨hi, his⟩ := List.ne_and_not_mem_of_not_mem_cons hr
    rw [runInputs_cons_of_next (applyInput_of_halted hs hi.symm), ih his]

/-! ## The tick -/

/-- An instruction depends on the operand bytes of its mode only, not on the bytes after them. -/
theorem instrOf_eq_instrOfBytes_take (opcode b1 b2 : Byte) :
    instrOf opcode b1 b2 = instrOfBytes opcode ([b1, b2].take (tableEntry opcode).mode.operandLength) := by
  rw [← bytes_operandOf, ← operand_instrOf]
  exact (instrOfBytes_of_opcodeOf (opcodeOf_instrOf opcode b1 b2)).symm

/-- What the bytes at PC decode to is the instruction the tick fetches. -/
theorem instrAt_of_decode {s : State} {i : Instr} {rest : List Byte} (h : decode (bytesAtPc s) = .ok (i, rest)) :
    instrAt s = i := by
  obtain ⟨opcode, args, hlen, hbytes, rfl⟩ := decode_eq_ok_iff.mp h
  obtain ⟨rfl, (htail : _ = args ++ rest)⟩ := List.cons.inj hbytes
  rw [instrAt, instrOf_eq_instrOfBytes_take, htail, ← hlen, List.take_left]

/-- The state after a fetch, PC moved by the length of the instruction. -/
theorem fetched_isFetched (i : Instr) (s : State) : Fetched i s (fetched i.operand.mode s) := by
  rw [Fetched, fetched_state, Instr.length, BitVec.ofNat_add, BitVec.add_assoc]
  rfl

/-- Settles O5: the tick of a Running machine, with the instruction at PC named by its decoding. -/
theorem stepRunsTheDecodedInstruction : Obligations.StepRunsTheDecodedInstruction := by
  intro s i rest hs h
  obtain rfl := instrAt_of_decode h
  exact ⟨_, fetched_isFetched _ s, step_running s hs⟩

end Sys2Proof.Machine

/-! # What an instruction leaves as it was, operation by operation (`10_state.md` R20 to R29)

`Keeps rs fs s t` follows the operations a meaning is made of: each keeps it if it writes a register or a flag that is
named. It holds for an operand of any mode, where the registers of `Frame` need a well-formed instruction. -/

namespace Sys2Proof.Machine

namespace Keeps

variable {rs : List Reg} {fs : List Flag} {s t u : State}

theorem refl (rs : List Reg) (fs : List Flag) (s : State) : Keeps rs fs s s :=
  ⟨fun _ _ => rfl, fun _ _ => rfl, rfl⟩

/-! ## Registers and flags: what is written is named -/

theorem updateReg (h : Keeps rs fs s u) (q : Reg) (hq : q ∈ rs)
    (hreg : ∀ r, r ≠ q → t.reg r = u.reg r := by rintro (_ | _ | _ | _) hr <;> trivial)
    (hp : t.p = u.p := by rfl) (hh : t.halted = u.halted := by rfl) : Keeps rs fs s t := by
  obtain ⟨hr, hf, hhalt⟩ := h
  refine ⟨fun r hrs => ?_, fun f hfs => ?_, hh.trans hhalt⟩
  · rw [hreg r (ne_of_mem_of_not_mem hq hrs).symm, hr r hrs]
  · rw [State.flag, hp]
    exact hf f hfs

theorem setA {v : Byte} (h : Keeps rs fs s u) (hq : .a ∈ rs := by decide) : Keeps rs fs s (u.setA v) :=
  h.updateReg .a hq

theorem setX {v : Byte} (h : Keeps rs fs s u) (hq : .x ∈ rs := by decide) : Keeps rs fs s (u.setX v) :=
  h.updateReg .x hq

theorem setY {v : Byte} (h : Keeps rs fs s u) (hq : .y ∈ rs := by decide) : Keeps rs fs s (u.setY v) :=
  h.updateReg .y hq

theorem setSp {v : Byte} (h : Keeps rs fs s u) (hq : .sp ∈ rs := by decide) : Keeps rs fs s (u.setSp v) :=
  h.updateReg .sp hq

/-- An update of the status byte that changes named flags only. -/
theorem setP {q : Byte} (h : Keeps rs fs s u) (hq : ∀ f, f ∉ fs → getFlag q f = u.flag f) :
    Keeps rs fs s (u.setP q) := by
  obtain ⟨hr, hf, hhalt⟩ := h
  exact ⟨fun r hrs => .trans (by cases r <;> rfl) (hr r hrs), fun f hfs => (hq f hfs).trans (hf f hfs), hhalt⟩

theorem putFlag {g : Flag} {v : Bool} (h : Keeps rs fs s u) (hg : g ∈ fs := by decide) :
    Keeps rs fs s (u.putFlag g v) :=
  h.setP fun f hf => by rw [getFlag_putFlag, if_neg (ne_of_mem_of_not_mem hg hf).symm, getFlag_p]

theorem setNZ {v : Byte} (h : Keeps rs fs s u) (hn : .n ∈ fs := by decide) (hz : .z ∈ fs := by decide) :
    Keeps rs fs s (u.setNZ v) :=
  (h.putFlag hn).putFlag hz

/-- Pulling the status byte writes every flag but bits 5 and 4 (`10_state.md` R32). -/
theorem pullStatus {b : Byte} (h : Keeps rs fs s u) (hw : ∀ f, f ∉ fs → f = .u ∨ f = .b) :
    Keeps rs fs s (u.setP (pullForm u.p b)) :=
  h.setP fun f hf => by rw [getFlag_pullForm, if_pos (hw f hf), getFlag_p]

/-! ## Operands and the stack: memory and the bus record are no register -/

theorem afterRead {o : Operand} (h : Keeps rs fs s u) : Keeps rs fs s (afterRead o u) := h

theorem resolve {o : Operand} (h : Keeps rs fs s u) : Keeps rs fs s (resolve o u).2 := by
  rw [resolve_state]
  exact h

theorem memWrite {a : Word} {v : Byte} (h : Keeps rs fs s u) : Keeps rs fs s (memWrite a v u) := h

theorem pull8 (h : Keeps rs fs s u) (hq : .sp ∈ rs := by decide) : Keeps rs fs s (pull8 u).2 := h.setSp hq

end Keeps

/-! ## The shapes of an effect -/

theorem bytesKept_of_mem {s t : State} (h : t.mem = s.mem) : BytesKept s t := fun b => by
  rw [State.peek, h, State.peek]

theorem nzof_setNZ (v : Byte) (t : State) : NZof v (t.setNZ v) := by simp [NZof]

/-- An instruction that has read its operand and written named registers and flags only. -/
theorem readsOperand_of_keeps {o : Operand} {rs : List Reg} {fs : List Flag} {s t : State} (h : Keeps rs fs s t)
    (hmem : t.mem = s.mem := by rfl) (hpc : t.pc = s.pc := by rfl) (hbus : t.bus = (afterRead o s).bus := by rfl) :
    ReadsOperand o rs fs s t :=
  ⟨h, bytesKept_of_mem hmem, hpc, hbus⟩

/-- An instruction that has written named registers and flags only. -/
theorem registersOnly_of_keeps {rs : List Reg} {fs : List Flag} {s t : State} (h : Keeps rs fs s t)
    (hmem : t.mem = s.mem := by rfl) (hpc : t.pc = s.pc := by rfl) (hbus : t.bus = s.bus := by rfl) :
    RegistersOnly rs fs s t :=
  ⟨h, bytesKept_of_mem hmem, hpc, hbus⟩

/-- A well-formed instruction that is no writer of A has no accumulator operand. -/
theorem operand_ne_acc_of_wf {i : Instr} (hwf : i.wf = true) (ha : writesReg .a i = false) : i.operand ≠ .acc :=
  fun hacc => Bool.false_ne_true (ha.symm.trans (writesReg_a_of_acc i hwf hacc))

/-- A well-formed instruction that stores a byte to its operand changes nothing else. -/
theorem completes_of_store {i : Instr} {o : Operand} {v : Byte} {s : State} (hwf : i.wf = true)
    (h : exec i s = writingOperand o v s) (ho : i.operand = o := by rfl) (ha : writesReg .a i = false := by rfl) :
    Completes i s (fun t => StoredTo o v s t ∧ Keeps [] [] s t ∧ t.pc = s.pc ∧
      Accessed (pointerReads o s ++ operandWrites o v s) s t) := by
  have hacc : o ≠ .acc := ho ▸ operand_ne_acc_of_wf hwf ha
  refine completes_of_writes o v h ⟨operandWrite_storedTo o v s _ (resolve_peek o s), ?_, by simp, ?_⟩
  · rw [operandWrite_mem _ _ _ _ hacc]
    exact (Keeps.refl [] [] s).resolve.memWrite
  · exact ((resolve_transacts o s).trans (operandWrite_transacts o v s _)).bus

end Sys2Proof.Machine

/-! # Load, store, transfer and stack instructions (`41_load_store_transfer_stack.md` R140 to R155) -/

namespace Sys2Proof.Machine

/-- Settles O28: the table's rows, and each load as its register and N and Z written after the operand is read. -/
theorem loadsLoadARegister : Obligations.LoadsLoadARegister := by
  refine ⟨hasRows_of_lookup .lda _ (by decide) (fun _ => rfl) (fun _ => rfl),
    hasRows_of_lookup .ldx _ (by decide) (fun _ => rfl) (fun _ => rfl),
    hasRows_of_lookup .ldy _ (by decide) (fun _ => rfl) (fun _ => rfl), fun o s => ⟨?lda, ?ldx, ?ldy⟩⟩
  case lda =>
    exact completes_of_reads o (fun m t => (t.setA m).setNZ m) rfl
      ⟨rfl, nzof_setNZ _ _, readsOperand_of_keeps (Keeps.refl _ _ s).afterRead.setA.setNZ⟩
  case ldx =>
    exact completes_of_reads o (fun m t => (t.setX m).setNZ m) rfl
      ⟨rfl, nzof_setNZ _ _, readsOperand_of_keeps (Keeps.refl _ _ s).afterRead.setX.setNZ⟩
  case ldy =>
    exact completes_of_reads o (fun m t => (t.setY m).setNZ m) rfl
      ⟨rfl, nzof_setNZ _ _, readsOperand_of_keeps (Keeps.refl _ _ s).afterRead.setY.setNZ⟩

/-- Settles O29: the table's rows, and each store as the one shape of a store. -/
theorem storesStoreARegister : Obligations.StoresStoreARegister :=
  ⟨hasRows_of_lookup .sta _ (by decide) (fun _ => rfl) (fun _ => rfl),
    hasRows_of_lookup .stx _ (by decide) (fun _ => rfl) (fun _ => rfl),
    hasRows_of_lookup .sty _ (by decide) (fun _ => rfl) (fun _ => rfl),
    fun _ _ => ⟨fun hwf => completes_of_store hwf rfl, fun hwf => completes_of_store hwf rfl,
      fun hwf => completes_of_store hwf rfl⟩⟩

/-- Settles O30: each transfer writes its destination, and all but TXS then N and Z. -/
theorem transfersCopyARegister : Obligations.TransfersCopyARegister := by
  refine ⟨⟨rfl, rfl⟩, ⟨rfl, rfl⟩, ⟨rfl, rfl⟩, ⟨rfl, rfl⟩, ⟨rfl, rfl⟩, ⟨rfl, rfl⟩, fun s =>
    ⟨?tax, ?tay, ?tsx, ?txa, ?tya, ?txs⟩⟩
  case tax | tsx =>
    exact completes_of_next rfl ⟨rfl, nzof_setNZ _ _, registersOnly_of_keeps (Keeps.refl _ _ s).setX.setNZ⟩
  case tay =>
    exact completes_of_next rfl ⟨rfl, nzof_setNZ _ _, registersOnly_of_keeps (Keeps.refl _ _ s).setY.setNZ⟩
  case txa | tya =>
    exact completes_of_next rfl ⟨rfl, nzof_setNZ _ _, registersOnly_of_keeps (Keeps.refl _ _ s).setA.setNZ⟩
  case txs => exact completes_of_next rfl ⟨rfl, registersOnly_of_keeps (Keeps.refl _ _ s).setSp⟩

/-- An instruction that is one push has the effect of the push (`20_memory.md` R59). -/
theorem completes_of_push8 {i : Instr} {v : Byte} {s : State} (h : exec i s = .next (push8 v s)) :
    Completes i s (fun t => t.peek (stackAddr s.sp) = v ∧ t.sp = s.sp - 1 ∧ Keeps [.sp] [] s t ∧
      BytesKeptBut [stackAddr s.sp] s t ∧ t.pc = s.pc ∧ Accessed [.write (stackAddr s.sp) v] s t) := by
  obtain ⟨-, hpush, -⟩ := stackPrimitives
  obtain ⟨hbyte, hsp, hkeeps, hpc, hbytes, hbus⟩ := hpush v s
  exact completes_of_next h ⟨hbyte, hsp, hkeeps, hbytes, hpc, hbus⟩

/-- Settles O31: both instructions are one push. -/
theorem pushesPushAByte : Obligations.PushesPushAByte :=
  ⟨⟨rfl, rfl⟩, ⟨rfl, rfl⟩, fun _ => ⟨completes_of_push8 rfl, completes_of_push8 rfl⟩⟩

/-- Settles O32: the pull writes S, then PLA writes A, N and Z, and PLP the flags of the byte but bits 5 and 4. -/
theorem pullsPullAByte : Obligations.PullsPullAByte := by
  refine ⟨⟨rfl, rfl⟩, ⟨rfl, rfl⟩, fun s => ⟨?pla, ?plp⟩⟩
  case pla =>
    exact completes_of_next rfl
      ⟨rfl, nzof_setNZ _ _, rfl, (Keeps.refl _ _ s).pull8.setA.setNZ, bytesKept_of_mem rfl, rfl, rfl⟩
  case plp =>
    have hflags : ∀ f : Flag, f ∉ [Flag.n, .v, .d, .i, .z, .c] → f = .u ∨ f = .b := by
      intro f
      cases f <;> decide
    exact completes_of_next rfl
      ⟨rfl, rfl, (Keeps.refl _ _ s).pull8.pullStatus hflags, bytesKept_of_mem rfl, rfl, rfl⟩

end Sys2Proof.Machine

/-! # Arithmetic, compare and logical instructions (`42_arithmetic_logical.md` R168 to R178) -/

namespace Sys2Proof.Machine

/-! ## The adder -/

theorem addWithCarry_result_toNat (a m : Byte) (c : Bool) :
    (addWithCarry a m c).result.toNat = (a.toNat + m.toNat + c.toNat) % 256 :=
  BitVec.toNat_ofNat _ 8

theorem addWithCarry_carry (a m : Byte) (c : Bool) :
    (addWithCarry a m c).carry = decide (0xFF < a.toNat + m.toNat + c.toNat) := rfl

theorem byte_and_0x80_ne_zero_iff (b : Byte) : b &&& 0x80 ≠ 0 ↔ b.msb = true := by
  have hmask : (0x80 : Byte) = BitVec.twoPow 8 7 := rfl
  rw [hmask, BitVec.and_twoPow, ← BitVec.msb_eq_getLsbD_last]
  cases b.msb <;> decide

/-- The formula of the rule says: both summands have the sign that the result has not. -/
theorem addWithCarry_overflow_iff_signs (a m : Byte) (c : Bool) :
    (addWithCarry a m c).overflow = true ↔
      a.msb ≠ (addWithCarry a m c).result.msb ∧ m.msb ≠ (addWithCarry a m c).result.msb := by
  refine decide_eq_true_iff.trans ((byte_and_0x80_ne_zero_iff _).trans ?_)
  rw [BitVec.msb_and, BitVec.msb_xor, BitVec.msb_xor, Bool.and_eq_true, bne_iff_ne, bne_iff_ne]
  rfl

/-- Summands of one sign and a result of the other is a signed sum out of range. -/
theorem addWithCarry_overflow_iff_range (a m : Byte) (c : Bool) :
    (addWithCarry a m c).overflow = true ↔
      a.toInt + m.toInt + (c.toNat : Int) < -128 ∨ 127 < a.toInt + m.toInt + (c.toNat : Int) := by
  have hr := addWithCarry_result_toNat a m c
  have := a.isLt; have := m.isLt; have := c.toNat_le
  rw [addWithCarry_overflow_iff_signs, BitVec.toInt_eq_toNat_cond, BitVec.toInt_eq_toNat_cond]
  simp only [ne_eq, BitVec.msb_eq_decide, decide_eq_decide]
  omega

/-- Settles O26: result and carry by definition, V by the signs of the summands and the result. -/
theorem adderIsExact : Obligations.AdderIsExact := fun a m c =>
  ⟨addWithCarry_result_toNat a m c, addWithCarry_carry a m c, addWithCarry_overflow_iff_range a m c, rfl⟩

theorem byte_complement_toNat (m : Byte) : (m ^^^ 0xFF).toNat = 255 - m.toNat := by
  rw [show (0xFF : Byte) = BitVec.allOnes 8 from rfl, BitVec.xor_allOnes, BitVec.toNat_not]

theorem byte_complement_toInt (m : Byte) : (m ^^^ 0xFF).toInt = -m.toInt - 1 := by
  have hc := byte_complement_toNat m
  have := m.isLt
  rw [BitVec.toInt_eq_toNat_cond, BitVec.toInt_eq_toNat_cond]
  omega

/-- Settles O27: the exact sums of `adderIsExact`, with the complement as `255 - M` unsigned and `-M - 1` signed. -/
theorem subtractionIsExact : Obligations.SubtractionIsExact := by
  intro a m c
  obtain ⟨hres, hcarry, hover, -⟩ := adderIsExact a (m ^^^ 0xFF) c
  have hc := byte_complement_toNat m
  have := m.isLt
  refine ⟨?result, ?carry, ?overflow⟩
  case result => omega
  case carry =>
    rw [hcarry, decide_eq_true_iff]
    omega
  case overflow =>
    rw [byte_complement_toInt] at hover
    exact hover.trans (by omega)

/-! ## Instructions that add to A or compare -/

namespace Keeps

variable {rs : List Reg} {fs : List Flag} {s u : State}

theorem compare {r m : Byte} (h : Keeps rs fs s u) (hc : .c ∈ fs := by decide) (hz : .z ∈ fs := by decide)
    (hn : .n ∈ fs := by decide) : Keeps rs fs s (u.compare r m) :=
  ((h.putFlag hc).putFlag hz).putFlag hn

theorem addToA {m : Byte} (h : Keeps rs fs s u) (ha : .a ∈ rs := by decide) (hc : .c ∈ fs := by decide)
    (hv : .v ∈ fs := by decide) (hn : .n ∈ fs := by decide) (hz : .z ∈ fs := by decide) :
    Keeps rs fs s (u.addToA m) :=
  (((h.putFlag hc).putFlag hv).setA ha).setNZ hn hz

end Keeps

/-- An instruction that reads its operand and adds a byte made of it to A. -/
theorem completes_of_add {i : Instr} {o : Operand} {g : Byte → Byte} {s : State}
    (h : exec i s = readingOperand o (fun m t => t.addToA (g m)) s) :
    Completes i s (fun t =>
      let r := addWithCarry s.a (g (operandValue o s)) (s.flag .c)
      t.a = r.result ∧ t.flag .c = r.carry ∧ t.flag .v = r.overflow ∧ NZof r.result t ∧
      ReadsOperand o [.a] [.n, .v, .z, .c] s t) :=
  completes_of_reads o _ h ⟨by simp, by simp, by simp, nzof_setNZ _ _,
    readsOperand_of_keeps (Keeps.refl _ _ s).afterRead.addToA⟩

/-- Settles O33: the table's rows, and the operand added to A. -/
theorem adcAddsWithCarry : Obligations.AdcAddsWithCarry :=
  ⟨hasRows_of_lookup .adc _ (by decide) (fun _ => rfl) (fun _ => rfl), fun _ _ => completes_of_add (g := id) rfl⟩

/-- Settles O34: the table's rows, and the operand's complement added to A: the difference of `subtractionIsExact`. -/
theorem sbcSubtractsWithBorrow : Obligations.SbcSubtractsWithBorrow := by
  refine ⟨hasRows_of_lookup .sbc _ (by decide) (fun _ => rfl) (fun _ => rfl), fun o s => ?_⟩
  obtain ⟨t, hexec, ha, hc, hv, hnz, hreads⟩ := completes_of_add (i := .sbc o) (g := (· ^^^ 0xFF)) (s := s) rfl
  obtain ⟨hdiff, -, -⟩ := subtractionIsExact s.a (operandValue o s) (s.flag .c)
  exact ⟨t, hexec, ha, hc, hv, hnz, ha ▸ hdiff, hreads⟩

/-- An instruction that reads its operand and compares a register with it. -/
theorem completes_of_compare {i : Instr} {o : Operand} {reg : State → Byte} {s : State}
    (h : exec i s = readingOperand o (fun m t => t.compare (reg t) m) s)
    (hreg : reg (afterRead o s) = reg s := by rfl) :
    Completes i s (fun t => t.flag .c = decide ((operandValue o s).toNat ≤ (reg s).toNat) ∧
      t.flag .z = decide (reg s = operandValue o s) ∧ t.flag .n = (reg s - operandValue o s).getLsbD 7 ∧
      ReadsOperand o [] [.n, .z, .c] s t) := by
  refine completes_of_reads o _ h ?_
  rw [hreg]
  exact ⟨by simp, by simp, by simp, readsOperand_of_keeps (Keeps.refl _ _ s).afterRead.compare⟩

/-- Settles O35: the table's rows, and each compare with its register. -/
theorem comparesSetNZC : Obligations.ComparesSetNZC :=
  ⟨hasRows_of_lookup .cmp _ (by decide) (fun _ => rfl) (fun _ => rfl),
    hasRows_of_lookup .cpx _ (by decide) (fun _ => rfl) (fun _ => rfl),
    hasRows_of_lookup .cpy _ (by decide) (fun _ => rfl) (fun _ => rfl),
    fun _ _ => ⟨completes_of_compare (reg := State.a) rfl, completes_of_compare (reg := State.x) rfl,
      completes_of_compare (reg := State.y) rfl⟩⟩

/-! ## Logical instructions -/

/-- An instruction that reads its operand, combines it with A, and sets N and Z from the new A. -/
theorem completes_of_combine {i : Instr} {o : Operand} {f : Byte → Byte → Byte} {s : State}
    (h : exec i s = readingOperand o (fun m t => (t.setA (f t.a m)).setNZ (f t.a m)) s) :
    Completes i s (fun t => t.a = f s.a (operandValue o s) ∧ NZof (f s.a (operandValue o s)) t ∧
      ReadsOperand o [.a] [.n, .z] s t) :=
  completes_of_reads o _ h
    ⟨rfl, nzof_setNZ _ _, readsOperand_of_keeps (Keeps.refl _ _ s).afterRead.setA.setNZ⟩

/-- Settles O36: the table's rows, and each instruction with its operation on A and the operand. -/
theorem logicalOpsCombineWithA : Obligations.LogicalOpsCombineWithA :=
  ⟨hasRows_of_lookup .and _ (by decide) (fun _ => rfl) (fun _ => rfl),
    hasRows_of_lookup .ora _ (by decide) (fun _ => rfl) (fun _ => rfl),
    hasRows_of_lookup .eor _ (by decide) (fun _ => rfl) (fun _ => rfl),
    fun _ _ => ⟨completes_of_combine (f := (· &&& ·)) rfl, completes_of_combine (f := (· ||| ·)) rfl,
      completes_of_combine (f := (· ^^^ ·)) rfl⟩⟩

/-- Settles O37: the table's rows, and Z, N and V written in turn after the operand is read. -/
theorem bitTestsWithoutChangingA : Obligations.BitTestsWithoutChangingA := by
  refine ⟨hasRows_of_lookup .bit _ (by decide) (fun _ => rfl) (fun _ => rfl), fun o s => completes_of_reads o
    (fun m t => ((t.putFlag .z (decide (t.a &&& m = 0))).putFlag .n (m.getLsbD 7)).putFlag .v (m.getLsbD 6)) rfl
    ⟨?z, ?n, ?v, readsOperand_of_keeps (Keeps.refl _ _ s).afterRead.putFlag.putFlag.putFlag⟩⟩
  case z =>
    simp only [State.putFlag_flag]
    rfl
  case n | v => simp

end Sys2Proof.Machine

/-! # Shift, rotate, increment and decrement instructions (`43_shift_incdec.md` R186 to R199) -/

namespace Sys2Proof.Machine

/-! ## Read-modify-write (R186) -/

theorem Keeps.operandWrite {rs : List Reg} {fs : List Flag} {s u : State} {o : Operand} {op : Word} {v : Byte}
    (h : Keeps rs fs s u) (hrs : ∀ r, r ∈ operandReg o → r ∈ rs) : Keeps rs fs s (operandWrite o op v u) := by
  cases o with
  | acc => exact h.setA (hrs .a (List.mem_singleton_self _))
  | _ => exact h.memWrite

theorem operandReg_of_ne_acc {o : Operand} (h : o ≠ .acc) : operandReg o = [] := by
  cases o with
  | acc => exact absurd rfl h
  | _ => rfl

/-- An instruction that has read its operand, written it back, and then written named registers and flags only. -/
theorem modifiesOperand_of_keeps {o : Operand} {v : Byte} {rs : List Reg} {fs : List Flag} {s t : State}
    (h : Keeps rs fs s t)
    (hacc : o = .acc → t.a = (operandWrite o (effAddr o s) v (afterRead o s)).a := by exact fun _ => rfl)
    (hmem : t.mem = (operandWrite o (effAddr o s) v (afterRead o s)).mem := by rfl)
    (hpc : t.pc = (operandWrite o (effAddr o s) v (afterRead o s)).pc := by rfl)
    (hbus : t.bus = (operandWrite o (effAddr o s) v (afterRead o s)).bus := by rfl) : ModifiesOperand o v rs fs s t :=
  ⟨(operandWrite_storedTo o v s _ (afterRead_peek o s)).of_same hacc hmem, h, hpc.trans (operandWrite_pc _ _ _ _),
    (((afterRead_transacts o s).trans (operandWrite_transacts o v s _)).of_same ⟨hmem, hbus⟩).bus⟩

/-- An instruction that moves its operand by one bit, and sets C to the bit moved out and N and Z to the result. -/
theorem completes_of_shift {i : Instr} {o : Operand} {g : Byte → Byte} {out : Byte → Bool} {s : State}
    (h : exec i s = modifyingOperand o g (fun m r t => (t.putFlag .c (out m)).setNZ r) s) :
    Completes i s (fun t => t.flag .c = out (operandValue o s) ∧ NZof (g (operandValue o s)) t ∧
      ModifiesOperand o (g (operandValue o s)) (operandReg o) [.n, .z, .c] s t) :=
  completes_of_modifies o g _ h ⟨by simp, nzof_setNZ _ _,
    modifiesOperand_of_keeps ((Keeps.refl _ _ s).afterRead.operandWrite fun _ hr => hr).putFlag.setNZ⟩

/-- An instruction that changes its operand and sets N and Z to the result. -/
theorem completes_of_count {i : Instr} {o : Operand} {g : Byte → Byte} {s : State}
    (h : exec i s = modifyingOperand o g (fun _ r t => t.setNZ r) s) :
    Completes i s (fun t => NZof (g (operandValue o s)) t ∧
      ModifiesOperand o (g (operandValue o s)) (operandReg o) [.n, .z] s t) :=
  completes_of_modifies o g _ h ⟨nzof_setNZ _ _,
    modifiesOperand_of_keeps ((Keeps.refl _ _ s).afterRead.operandWrite fun _ hr => hr).setNZ⟩

/-! ## The bits of a shift and of a rotate -/

@[simp] theorem getElem_carryByte (c : Bool) {k : Nat} (hk : k < 8) : (carryByte c)[k] = (decide (k = 0) && c) := by
  cases c <;> simp [carryByte]

theorem topBit_shiftRight (m : Byte) : topBit (shiftRight m) = false := by simp [topBit, shiftRight]

theorem topBit_rotateRight (c : Bool) (m : Byte) : topBit (rotateRight c m) = c := by
  simp [topBit, rotateRight]

theorem bottomBit_rotateLeft (c : Bool) (m : Byte) : bottomBit (rotateLeft c m) = c := by
  simp [bottomBit, rotateLeft]

theorem getLsbD_rotateRight_of_lt {k : Nat} (hk : k < 7) (c : Bool) (m : Byte) :
    (rotateRight c m).getLsbD k = m.getLsbD (k + 1) := by
  simp [rotateRight, hk, Nat.add_comm]

theorem getLsbD_rotateLeft_succ {k : Nat} (hk : k < 7) (c : Bool) (m : Byte) :
    (rotateLeft c m).getLsbD (k + 1) = m.getLsbD k := by
  have hsucc : k + 1 < 8 := by omega
  simp [rotateLeft, hsucc, BitVec.getLsbD_eq_getElem (Nat.lt_of_succ_lt hsucc)]

/-- Rotating right brings back the bit a left rotate moved out, and moves the others back. -/
theorem rotateRight_rotateLeft (c : Bool) (m : Byte) : rotateRight (topBit m) (rotateLeft c m) = m := by
  refine BitVec.eq_of_getLsbD_eq fun k hk => ?_
  obtain rfl | hlt : k = 7 ∨ k < 7 := by omega
  · exact topBit_rotateRight (topBit m) (rotateLeft c m)
  · rw [getLsbD_rotateRight_of_lt hlt, getLsbD_rotateLeft_succ hlt]

/-- Settles O38: the table's rows, and each instruction as one bit moved; LSR shifts in 0 and ROR the carry at the top. -/
theorem shiftsAndRotatesMoveOneBit : Obligations.ShiftsAndRotatesMoveOneBit := by
  refine ⟨hasRows_of_lookup .asl _ (by decide) (fun _ => rfl) (fun _ => rfl),
    hasRows_of_lookup .lsr _ (by decide) (fun _ => rfl) (fun _ => rfl),
    hasRows_of_lookup .rol _ (by decide) (fun _ => rfl) (fun _ => rfl),
    hasRows_of_lookup .ror _ (by decide) (fun _ => rfl) (fun _ => rfl), fun o s => ⟨?asl, ?lsr, ?rol, ?ror⟩⟩
  case asl => exact completes_of_shift (g := shiftLeft) (out := topBit) rfl
  case lsr =>
    obtain ⟨t, hexec, hc, hnz, hmod⟩ := completes_of_shift (i := .lsr o) (s := s) rfl
    exact ⟨t, hexec, hc, hnz.1.trans (topBit_shiftRight _), hnz, hmod⟩
  case rol => exact completes_of_shift (g := rotateLeft (s.flag .c)) (out := topBit) rfl
  case ror =>
    obtain ⟨t, hexec, hc, hnz, hmod⟩ := completes_of_shift (i := .ror o) (s := s) rfl
    exact ⟨t, hexec, hc, hnz.1.trans (topBit_rotateRight _ _), hnz, hmod⟩

/-- Settles O39: the table's rows, and each instruction as a count; no well-formed one has the accumulator as operand. -/
theorem incDecCountInMemory : Obligations.IncDecCountInMemory := by
  refine ⟨hasRows_of_lookup .inc _ (by decide) (fun _ => rfl) (fun _ => rfl),
    hasRows_of_lookup .dec _ (by decide) (fun _ => rfl) (fun _ => rfl), fun o s => ⟨fun hwf => ?inc, fun hwf => ?dec⟩⟩
  case inc =>
    exact operandReg_of_ne_acc (operand_ne_acc_of_wf hwf rfl) ▸ completes_of_count (g := (· + 1)) rfl
  case dec =>
    exact operandReg_of_ne_acc (operand_ne_acc_of_wf hwf rfl) ▸ completes_of_count (g := (· - 1)) rfl

/-- Settles O40: each instruction writes its index register, then N and Z. -/
theorem indexRegistersCount : Obligations.IndexRegistersCount := by
  refine ⟨⟨rfl, rfl⟩, ⟨rfl, rfl⟩, ⟨rfl, rfl⟩, ⟨rfl, rfl⟩, fun s => ⟨?inx, ?iny, ?dex, ?dey⟩⟩
  case inx | dex =>
    exact completes_of_next rfl ⟨rfl, nzof_setNZ _ _, registersOnly_of_keeps (Keeps.refl _ _ s).setX.setNZ⟩
  case iny | dey =>
    exact completes_of_next rfl ⟨rfl, nzof_setNZ _ _, registersOnly_of_keeps (Keeps.refl _ _ s).setY.setNZ⟩

/-! ## Round trips (`95_test_vectors.md` U-5) -/

theorem Completes.of_exec {i : Instr} {s t : State} {post : State → Prop} (h : Completes i s post)
    (he : exec i s = .next t) : post t := by
  obtain ⟨u, hu, hpost⟩ := h
  cases hu.symm.trans he
  exact hpost

namespace Keeps

variable {rs rs' : List Reg} {fs fs' : List Flag} {s t u : State}

theorem trans (h : Keeps rs fs s t) (h' : Keeps rs fs t u) : Keeps rs fs s u := by
  obtain ⟨hreg, hflag, hhalted⟩ := h
  obtain ⟨hreg', hflag', hhalted'⟩ := h'
  exact ⟨fun r hr => (hreg' r hr).trans (hreg r hr), fun f hf => (hflag' f hf).trans (hflag f hf),
    hhalted'.trans hhalted⟩

/-- A named register or flag that is as it was need not be named. -/
theorem narrow (h : Keeps rs fs s t) (hr : ∀ r, r ∈ rs → r ∉ rs' → t.reg r = s.reg r)
    (hf : ∀ f, f ∈ fs → f ∉ fs' → t.flag f = s.flag f) : Keeps rs' fs' s t := by
  obtain ⟨hreg, hflag, hhalted⟩ := h
  refine ⟨fun r hr' => ?_, fun f hf' => ?_, hhalted⟩
  · by_cases hmem : r ∈ rs
    · exact hr r hmem hr'
    · exact hreg r hmem
  · by_cases hmem : f ∈ fs
    · exact hf f hmem hf'
    · exact hflag f hmem

end Keeps

theorem bytesKept_of_restored {a : Word} {s t u : State} (h : BytesKeptBut [a] s t) (h' : BytesKeptBut [a] t u)
    (ha : u.peek a = s.peek a) : BytesKept s u := by
  intro b
  by_cases hb : b = a
  · rw [hb, ha]
  · have hnot : b ∉ [a] := mt List.mem_singleton.mp hb
    exact (h' b hnot).trans (h b hnot)

section
variable {o : Operand} (hm : o.mode ∈ shiftModes)
include hm

/-- In the modes of the shifts a memory operand's address depends on X only, so a stored byte is found there again. -/
theorem operandValue_of_storedTo {v : Byte} {s t : State} (hx : t.x = s.x) (h : StoredTo o v s t) :
    operandValue o t = v := by
  cases o with
  | acc => exact h.1
  | zpg | zpgx | abs | absx => simpa [operandValue, StoredTo, hx] using h.1
  | _ => simp [shiftModes, Operand.mode] at hm

/-- Storing the old operand value back restores memory, and the register an accumulator operand is. -/
theorem storedTo_restores {v : Byte} {s t u : State} (hx : t.x = s.x) (h : StoredTo o v s t)
    (h' : StoredTo o (operandValue o s) t u) : BytesKept s u ∧ ∀ r, r ∈ operandReg o → u.reg r = s.reg r := by
  cases o with
  | acc =>
    refine ⟨fun b => (h'.2 b).trans (h.2 b), fun r hr => ?_⟩
    obtain rfl := List.mem_singleton.mp hr
    exact h'.1
  | zpg | zpgx | abs | absx =>
    simp only [StoredTo, effAddr_zpg, effAddr_zpgx, effAddr_abs, effAddr_absx, hx] at h h'
    exact ⟨bytesKept_of_restored h.2 h'.2 h'.1, fun r hr => absurd hr List.not_mem_nil⟩
  | _ => simp [shiftModes, Operand.mode] at hm

end

section
variable {o : Operand} {v : Byte} {fs : List Flag} {s t u : State}

theorem x_of_modifiesOperand (h : ModifiesOperand o v (operandReg o) fs s t) : t.x = s.x := by
  obtain ⟨-, ⟨hreg, -, -⟩, -, -⟩ := h
  exact hreg .x (by cases o <;> simp [operandReg])

theorem operandValue_of_modifiesOperand (hm : o.mode ∈ shiftModes) (h : ModifiesOperand o v (operandReg o) fs s t) :
    operandValue o t = v :=
  operandValue_of_storedTo hm (x_of_modifiesOperand h) h.1

/-- A read-modify-write that stores the old value back after another one restores all but the flags that they write. -/
theorem modifiesOperand_restores (hm : o.mode ∈ shiftModes) (h : ModifiesOperand o v (operandReg o) fs s t)
    (h' : ModifiesOperand o (operandValue o s) (operandReg o) fs t u) :
    BytesKept s u ∧ Keeps [] fs s u ∧ u.pc = s.pc := by
  have hx := x_of_modifiesOperand h
  obtain ⟨hstored, hkeeps, hpc, -⟩ := h
  obtain ⟨hstored', hkeeps', hpc', -⟩ := h'
  obtain ⟨hbytes, hreg⟩ := storedTo_restores hm hx hstored hstored'
  exact ⟨hbytes, (hkeeps.trans hkeeps').narrow (fun r hr _ => hreg r hr) (fun _ hf hnot => absurd hf hnot),
    hpc'.trans hpc⟩
end

/-- Settles O41: DEC and ROR store back the value that INC and ROL found in the operand, and ROR leaves the carry that
ROL rotated in. -/
theorem countAndRotateRoundTrips : Obligations.CountAndRotateRoundTrips := by
  refine fun o s t => ⟨fun hwf hexec => ?count, fun hwf hexec => ?rotate⟩
  case count =>
    have hm : o.mode ∈ shiftModes := List.mem_cons_of_mem _ (List.contains_iff_mem.mp hwf)
    obtain ⟨-, hinc⟩ := (completes_of_count (i := .inc o) (g := (· + 1)) rfl).of_exec hexec
    obtain ⟨u, hdec, hnz, hmod⟩ := completes_of_count (i := .dec o) (g := (· - 1)) (s := t) rfl
    rw [operandValue_of_modifiesOperand hm hinc, BitVec.add_sub_cancel] at hnz hmod
    obtain ⟨hbytes, hkeeps, hpc⟩ := modifiesOperand_restores hm hinc hmod
    exact ⟨u, hdec, hbytes, hnz, hkeeps, hpc⟩
  case rotate =>
    have hm : o.mode ∈ shiftModes := List.contains_iff_mem.mp hwf
    obtain ⟨hcarry, -, hrol⟩ := (completes_of_shift (i := .rol o) rfl).of_exec hexec
    obtain ⟨u, hror, hc, -, hmod⟩ := completes_of_shift (i := .ror o) (s := t) rfl
    rw [operandValue_of_modifiesOperand hm hrol] at hc hmod
    rw [hcarry, rotateRight_rotateLeft] at hmod
    rw [bottomBit_rotateLeft] at hc
    obtain ⟨hbytes, hkeeps, hpc⟩ := modifiesOperand_restores hm hrol hmod
    refine ⟨u, hror, hbytes, hkeeps.narrow (fun _ hr => absurd hr List.not_mem_nil) fun f hf hnot => ?_, hpc⟩
    obtain rfl : f = .c := by
      revert hf hnot
      cases f <;> decide
    exact hc

end Sys2Proof.Machine

/-! # Branches, jumps, subroutine call and returns (`44_branch_jump.md` R210 to R222) -/

namespace Sys2Proof.Machine

/-- The bytes of an instruction's encoding decode to it. -/
theorem hasBytes_of_encode {i : Instr} {bytes : List Byte} (h : encode i = some bytes) : HasBytes i bytes := by
  obtain ⟨opcode, hop, rfl⟩ := encode_eq_some_iff.mp h
  exact ⟨h, decode_eq_ok_iff.mpr ⟨opcode, i.operand.bytes, operandBytes_length_of_opcodeOf hop,
    (List.append_nil _).symm, (instrOfBytes_of_opcodeOf hop).symm⟩⟩

theorem Keeps.setPc {rs : List Reg} {fs : List Flag} {s u : State} {w : Word} (h : Keeps rs fs s u) :
    Keeps rs fs s (u.setPc w) := h

/-! ## Branches -/

/-- A displacement is added as a signed number, modulo 65536 (`44_branch_jump.md` R210). -/
theorem add_sext16_toNat (w : Word) (b : Byte) :
    ((w + sext16 b).toNat : Int) = ((w.toNat : Int) + b.toInt) % 65536 := by
  rw [BitVec.toNat_add, sext16, BitVec.signExtend, BitVec.toNat_ofInt]
  omega

/-- An instruction that is a branch on a condition: either way the displacement is read and nothing else but PC
changes. -/
theorem completes_of_branch {i : Instr} {cond : Bool} {rr : Byte} {s : State} (h : exec i s = branch cond rr s) :
    Completes i s (fun t =>
      (t.pc.toNat : Int) = (if cond then ((s.pc.toNat : Int) + rr.toInt) % 65536 else (s.pc.toNat : Int)) ∧
      Keeps [] [] s t ∧ BytesKept s t ∧ Accessed [.read (s.pc - 1) rr] s t) := by
  refine completes_of_reads (.rel rr) _ h ?_
  cases cond with
  | false => exact ⟨rfl, (Keeps.refl _ _ s).afterRead, bytesKept_of_mem rfl, rfl⟩
  | true => exact ⟨add_sext16_toNat s.pc rr, (Keeps.refl _ _ s).afterRead.setPc, bytesKept_of_mem rfl, rfl⟩

/-- Settles O42: each of the eight is the branch on its flag. -/
theorem branchesAddTheDisplacement : Obligations.BranchesAddTheDisplacement :=
  ⟨fun _ => ⟨⟨rfl, rfl⟩, ⟨rfl, rfl⟩, ⟨rfl, rfl⟩, ⟨rfl, rfl⟩, ⟨rfl, rfl⟩, ⟨rfl, rfl⟩, ⟨rfl, rfl⟩, ⟨rfl, rfl⟩⟩,
    fun _ _ => ⟨completes_of_branch rfl, completes_of_branch rfl, completes_of_branch rfl, completes_of_branch rfl,
      completes_of_branch rfl, completes_of_branch rfl, completes_of_branch rfl, completes_of_branch rfl⟩⟩

/-! ## Jumps -/

/-- JMP answers the effective address as PC; only the pointer reads of its mode are made. -/
theorem completes_jmp (o : Operand) (s : State) :
    Completes (.jmp o) s (fun t => t.pc = effAddr o s ∧ Keeps [] [] s t ∧ BytesKept s t ∧
      Accessed (pointerReads o s) s t) :=
  completes_of_next rfl
    ⟨rfl, (Keeps.refl _ _ s).resolve.setPc, bytesKept_of_mem (resolve_mem o s), resolve_bus o s⟩

/-- Settles O43: the table's rows, and PC the effective address of each mode; the indirect one stays in its page. -/
theorem jmpJumps : Obligations.JmpJumps := by
  refine ⟨hasRows_of_lookup .jmp _ (by decide) (fun _ => rfl) (fun _ => rfl),
    fun w s => ⟨completes_jmp (.abs w) s, ?_⟩⟩
  rw [nextInPage_eq]
  exact completes_jmp (.ind w) s

/-! ## Call and returns -/

/-- Settles O44: the push of `stackPrimitives`, then PC is the operand. -/
theorem jsrPushesItsLastByte : Obligations.JsrPushesItsLastByte := by
  refine ⟨fun w => hasBytes_of_encode rfl, fun w s => ?_⟩
  obtain ⟨-, -, -, hpush, -⟩ := stackPrimitives
  obtain ⟨hhi, hlo, hsp, hkeeps, -, hbytes, hbus⟩ := hpush (s.pc - 1) s
  exact completes_of_next rfl ⟨rfl, hsp, hhi, hlo, hkeeps.setPc, hbytes, hbus⟩

/-- RTS pulls a word and answers the address after it (the spec's decision D28). -/
theorem completes_rts (s : State) :
    let lo := s.peek (stackAddr (s.sp + 1))
    let hi := s.peek (stackAddr (s.sp + 2))
    Completes .rts s (fun t => t.pc = word hi lo + 1 ∧ t.sp = s.sp + 2 ∧ Keeps [.sp] [] s t ∧ BytesKept s t ∧
      Accessed [.read (stackAddr (s.sp + 1)) lo, .read (stackAddr (s.sp + 2)) hi] s t) := by
  obtain ⟨-, -, -, -, hpull⟩ := stackPrimitives
  obtain ⟨hword, hsp, hkeeps, -, hbytes, hbus⟩ := hpull s
  exact completes_of_next rfl ⟨congrArg (· + 1) hword, hsp, hkeeps.setPc, hbytes, hbus⟩

theorem word_add_one_toNat (hi lo : Byte) : (word hi lo + 1).toNat = (hi.toNat * 256 + lo.toNat + 1) % 65536 := by
  rw [BitVec.toNat_add, word_toNat]
  rfl

/-- Settles O45: the pulled word and its successor as numbers. -/
theorem rtsReturnsPastTheCall : Obligations.RtsReturnsPastTheCall := by
  refine ⟨⟨rfl, rfl⟩, fun s => ?_⟩
  obtain ⟨t, hexec, hpc, hrest⟩ := completes_rts s
  exact ⟨t, hexec, hpc ▸ word_add_one_toNat _ _, hrest⟩

/-- Settles O46: RTS pulls from the two addresses JSR pushed to, also when S wraps between them, and the one it adds is
the one JSR took off. -/
theorem rtsUndoesJsr : Obligations.RtsUndoesJsr := by
  intro w pc' s t hexec
  obtain ⟨-, hjsr⟩ := jsrPushesItsLastByte
  obtain ⟨-, hsp, hhi, hlo, hkeeps, -, -⟩ := (hjsr w s).of_exec hexec
  obtain ⟨u, hrts, hpc, husp, hkeeps', -, -⟩ := completes_rts (t.setPc pc')
  have hlow : t.sp + 1 = s.sp - 1 := by rw [hsp]; bv_omega
  have hhigh : t.sp + 2 = s.sp := by rw [hsp, BitVec.sub_add_cancel]
  have hrestored : u.sp = s.sp := husp.trans hhigh
  refine ⟨u, hrts, ?_, hrestored, (hkeeps.setPc.trans hkeeps').narrow (fun r hr _ => ?_) fun _ hf _ => ?_⟩
  · rw [hpc, State.setPc_sp, State.setPc_peek, State.setPc_peek, hlow, hhigh, hhi, hlo, word_hiByte_loByte,
      BitVec.sub_add_cancel]
  · obtain rfl := List.mem_singleton.mp hr
    exact hrestored
  · exact absurd hf List.not_mem_nil

theorem byte_add_one_add_one_add_one (b : Byte) : b + 1 + 1 + 1 = b + 3 := by bv_omega

/-- The flags that no pull of the status byte writes are bits 5 and 4 (`10_state.md` R32). -/
theorem unused_of_not_mem_pulled {f : Flag} (h : f ∉ [Flag.n, .v, .d, .i, .z, .c]) : f = .u ∨ f = .b := by
  revert h
  cases f <;> decide

/-- Settles O47: the frame of the return is that of its three pulls and the status byte; the rest are the laws of
`returnFromTrap`. -/
theorem rtiRestoresStatusAndPc : Obligations.RtiRestoresStatusAndPc := by
  refine ⟨⟨rfl, rfl⟩, fun s => ?_⟩
  rw [← byte_add_one_add_one_add_one, ← byte_add_one_add_one]
  exact completes_of_next rfl ⟨returnFromTrap_p s, returnFromTrap_pc s, returnFromTrap_sp s,
    ((Keeps.refl _ _ s).pull8.pullStatus fun _ hf => unused_of_not_mem_pulled hf).pull8.pull8.setPc,
    returnFromTrap_peek s, returnFromTrap_bus s⟩

end Sys2Proof.Machine

/-! # Flag operations, BRK, NOP and JAM (`45_flag_system.md` R230 to R239) -/

namespace Sys2Proof.Machine

/-! ## Trap entry -/

theorem byte_sub_one_sub_one_sub_one (b : Byte) : b - 1 - 1 - 1 = b - 3 := by bv_omega

/-- A trap saves the return address and the status byte at three different addresses, also when S wraps between them. -/
theorem takeTrap_saved (r : Word) (st : Byte) (vec : Word) (s : State) :
    (takeTrap r st vec s).peek (stackAddr s.sp) = hiByte r ∧
      (takeTrap r st vec s).peek (stackAddr (s.sp - 1)) = loByte r ∧
      (takeTrap r st vec s).peek (stackAddr (s.sp - 1 - 1)) = st := by
  have hne₀₁ : stackAddr s.sp ≠ stackAddr (s.sp - 1) := mt (stackAddr_inj _ _).mp (by bv_omega)
  have hne₀₂ : stackAddr s.sp ≠ stackAddr (s.sp - 1 - 1) := mt (stackAddr_inj _ _).mp (by bv_omega)
  have hne₁₂ : stackAddr (s.sp - 1) ≠ stackAddr (s.sp - 1 - 1) := mt (stackAddr_inj _ _).mp (by bv_omega)
  refine ⟨?_, ?_, ?_⟩
  · rw [takeTrap_peek, if_neg hne₀₂, if_neg hne₀₁, if_pos rfl]
  · rw [takeTrap_peek, if_neg hne₁₂, if_pos rfl]
  · rw [takeTrap_peek, if_pos rfl]

theorem Keeps.push8 {rs : List Reg} {fs : List Flag} {s u : State} {v : Byte} (h : Keeps rs fs s u)
    (hq : .sp ∈ rs := by decide) : Keeps rs fs s (push8 v u) :=
  h.memWrite.setSp hq

theorem Keeps.noteRead {rs : List Reg} {fs : List Flag} {s u : State} {a : Word} {v : Byte} (h : Keeps rs fs s u) :
    Keeps rs fs s (u.noteRead a v) := h

/-- The whole effect of a trap, for BRK and the interrupt inputs (`60_exceptions.md` R303, R308): the vector is read after
the pushes. -/
theorem takeTrap_effect (r : Word) (st : Byte) (vec : Word) (s : State) :
    let t := takeTrap r st vec s
    t.peek (stackAddr s.sp) = hiByte r ∧ t.peek (stackAddr (s.sp - 1)) = loByte r ∧
    t.peek (stackAddr (s.sp - 2)) = st ∧ t.sp = s.sp - 3 ∧ t.flag .i = true ∧
    t.pc = word (t.peek (vec + 1)) (t.peek vec) ∧ Keeps [.sp] [.i] s t ∧
    BytesKeptBut [stackAddr s.sp, stackAddr (s.sp - 1), stackAddr (s.sp - 2)] s t ∧
    Accessed [.write (stackAddr s.sp) (hiByte r), .write (stackAddr (s.sp - 1)) (loByte r),
      .write (stackAddr (s.sp - 2)) st, .read vec (t.peek vec), .read (vec + 1) (t.peek (vec + 1))] s t := by
  rw [← byte_sub_one_sub_one_sub_one, ← byte_sub_one_sub_one]
  have htrap := takeTrap_transacts r st vec s
  obtain ⟨hhi, hlo, hstatus⟩ := takeTrap_saved r st vec s
  have hkeeps : Keeps [.sp] [.i] s (takeTrap r st vec s) :=
    (Keeps.refl _ _ s).push8.push8.push8.putFlag.noteRead.noteRead.setPc
  exact ⟨hhi, hlo, hstatus, takeTrap_sp r st vec s, takeTrap_flag r st vec s .i, takeTrap_pc r st vec s, hkeeps,
    htrap.bytesKeptBut, htrap.bus⟩

/-- Settles O49: BRK is a trap that returns past the byte after the opcode. -/
theorem brkTakesTheTrap : Obligations.BrkTakesTheTrap :=
  ⟨⟨rfl, rfl⟩, fun s => completes_of_next rfl (takeTrap_effect (s.pc + 1) (pushForm s.p) Config.irqVector s)⟩

/-! ## Flag operations -/

/-- An instruction that writes one flag writes nothing else. -/
theorem completes_of_putFlag {i : Instr} {f : Flag} {v : Bool} {s : State} (h : exec i s = .next (s.putFlag f v)) :
    Completes i s (fun t => t.flag f = v ∧ RegistersOnly [] [f] s t) :=
  completes_of_next h ⟨by rw [State.putFlag_flag, if_pos rfl],
    registersOnly_of_keeps ((Keeps.refl _ _ s).putFlag (List.mem_singleton_self f))⟩

/-- Settles O48: each of the seven writes its flag. -/
theorem flagOpsSetOneFlag : Obligations.FlagOpsSetOneFlag :=
  ⟨⟨rfl, rfl⟩, ⟨rfl, rfl⟩, ⟨rfl, rfl⟩, ⟨rfl, rfl⟩, ⟨rfl, rfl⟩, ⟨rfl, rfl⟩, ⟨rfl, rfl⟩,
    fun _ => ⟨completes_of_putFlag rfl, completes_of_putFlag rfl, completes_of_putFlag rfl, completes_of_putFlag rfl,
      completes_of_putFlag rfl, completes_of_putFlag rfl, completes_of_putFlag rfl⟩⟩

/-! ## NOP and JAM -/

/-- The opcode bytes of JAM are those the encoder numbers (`30_encoding.md` R86). -/
theorem encode_jam (k : Fin 12) : encode (.jam k) =
    some [([0x02, 0x12, 0x22, 0x32, 0x42, 0x52, 0x62, 0x72, 0x92, 0xB2, 0xD2, 0xF2] : List Byte).getD k.val 0] := by
  fin_cases k <;> rfl

/-- Settles O50: NOP answers the state it is given, JAM that state Jammed; the JAM bytes decode because they are its
encoding. -/
theorem nopAndJam : Obligations.NopAndJam :=
  ⟨⟨rfl, rfl⟩, fun k => hasBytes_of_encode (encode_jam k),
    fun _ => ⟨completes_of_next rfl rfl, fun _ => completes_of_next rfl rfl⟩⟩

end Sys2Proof.Machine

/-! # Undocumented opcodes (`46_undocumented.md` R250 to R272) -/

namespace Sys2Proof.Machine

/-! ## The flags of an instruction that writes several in turn -/

section
variable {u : State} {f : Flag}

theorem flag_putFlag_same (b : Bool) : (u.putFlag f b).flag f = b := by
  rw [State.putFlag_flag, if_pos rfl]

theorem flag_putFlag_of_ne {g : Flag} {b : Bool} (h : g ≠ f) : (u.putFlag f b).flag g = u.flag g := by
  rw [State.putFlag_flag, if_neg h]

theorem carry_setNZ (v : Byte) : (u.setNZ v).flag .c = u.flag .c := by simp

theorem negative_setNZ (v : Byte) : (u.setNZ v).flag .n = v.getLsbD 7 := by simp

theorem NZof.putFlag {v : Byte} {b : Bool} (h : NZof v u) (hn : .n ≠ f := by decide) (hz : .z ≠ f := by decide) :
    NZof v (u.putFlag f b) := by
  obtain ⟨hneg, hzero⟩ := h
  exact ⟨(flag_putFlag_of_ne hn).trans hneg, (flag_putFlag_of_ne hz).trans hzero⟩
end

/-! ## Operands that are resolved only (R250, R271) -/

theorem ignoresOperand_resolve (o : Operand) (s : State) : IgnoresOperand o s (resolve o s).2 :=
  ⟨(Keeps.refl _ _ s).resolve, bytesKept_of_mem (resolve_mem o s), resolve_pc o s, resolve_bus o s⟩

theorem completes_of_ignoring {i : Instr} {o : Operand} {s : State} (h : exec i s = ignoringOperand o s) :
    Completes i s (IgnoresOperand o s) :=
  completes_of_ignores o h (ignoresOperand_resolve o s)

/-- The modes that have undocumented NOP bytes (`30_encoding.md` R86, row NOP*). -/
def nopuModes : List Mode := [.imp, .imm, .zpg, .zpgx, .abs, .absx]

/-- The undocumented NOP bytes as rows of mode, number in the mode and byte. -/
def nopuRows : List (Mode × Nat × Byte) :=
  nopuModes.flatMap fun m => (nopuBytes m).zipIdx.map fun (b, k) => (m, k, b)

theorem mem_nopuModes_of_getElem? {m : Mode} {k : Nat} {b : Byte} (h : (nopuBytes m)[k]? = some b) :
    m ∈ nopuModes := by
  have hne : nopuBytes m ≠ [] := List.ne_nil_of_mem (List.mem_of_getElem? h)
  revert hne
  cases m <;> decide

theorem mem_nopuRows_iff {m : Mode} {k : Nat} {b : Byte} : (m, k, b) ∈ nopuRows ↔ (nopuBytes m)[k]? = some b := by
  simp only [nopuRows, List.mem_flatMap, List.mem_map, List.mem_zipIdx_iff_getElem?, Prod.mk.injEq, Prod.exists]
  constructor
  · rintro ⟨_, -, _, _, hget, rfl, rfl, rfl⟩
    exact hget
  · intro hget
    exact ⟨m, mem_nopuModes_of_getElem? hget, b, k, hget, rfl, rfl, rfl⟩

theorem encode_nopu_iff (k : Fin 6) (o : Operand) (b : Byte) :
    encode (.nopu k o) = some (b :: o.bytes) ↔ (o.mode, k.val, b) ∈ nopuRows := by
  rw [mem_nopuRows_iff, encode_eq_some_iff]
  constructor
  · rintro ⟨_, hop, hbytes⟩
    obtain ⟨rfl, -⟩ := List.cons.inj hbytes
    exact hop
  · exact fun hop => ⟨b, hop, rfl⟩

/-- Settles O51: the encoder's numbered bytes mode by mode, and each NOP as its operand resolved. -/
theorem undocumentedNopsDoNothing : Obligations.UndocumentedNopsDoNothing :=
  ⟨encode_nopu_iff, fun _ _ _ => completes_of_ignoring rfl⟩

/-- Settles O57: the opcode bytes, and each instruction as its operand resolved under the machine's policy. -/
theorem unstableOpcodesFollowThePolicy : Obligations.UnstableOpcodesFollowThePolicy :=
  ⟨fun _ => ⟨⟨rfl, rfl⟩, ⟨rfl, rfl⟩⟩,
    hasRows_of_lookup .sha _ (by decide) (fun _ => rfl) (fun _ => rfl),
    fun _ => ⟨hasBytes_of_encode rfl, hasBytes_of_encode rfl, hasBytes_of_encode rfl⟩,
    fun _ _ _ _ => ⟨completes_of_ignoring rfl, completes_of_ignoring rfl, completes_of_ignoring rfl,
      completes_of_ignoring rfl, completes_of_ignoring rfl, completes_of_ignoring rfl⟩,
    fun _ o s => ⟨⟨_, rfl, ignoresOperand_resolve o s⟩, rfl⟩⟩

/-! ## LAX and SAX (R251, R252) -/

/-- Settles O52: the table's rows, LAX as A, X, N and Z written after the operand is read, SAX as a store. -/
theorem laxLoadsAAndXAndSaxStoresThem : Obligations.LaxLoadsAAndXAndSaxStoresThem := by
  refine ⟨hasRows_of_lookup .lax _ (by decide) (fun _ => rfl) (fun _ => rfl),
    hasRows_of_lookup .sax _ (by decide) (fun _ => rfl) (fun _ => rfl), fun o s => ⟨?lax, fun hwf => ?sax⟩⟩
  case lax =>
    exact completes_of_reads o (fun m t => ((t.setA m).setX m).setNZ m) rfl
      ⟨rfl, rfl, nzof_setNZ _ _, readsOperand_of_keeps (Keeps.refl _ _ s).afterRead.setA.setX.setNZ⟩
  case sax => exact completes_of_store hwf rfl

/-! ## Read-modify-write composites (R253 to R258, R272) -/

theorem ne_acc_of_compositeModes {o : Operand} (hm : compositeModes.contains o.mode = true) : o ≠ .acc := by
  rintro rfl
  exact absurd hm (by decide)

/-- The state a composite goes on from: its operand read, and `v` written back to memory. -/
def afterModify (o : Operand) (v : Byte) (s : State) : State := memWrite (effAddr o s) v (afterRead o s)

theorem operandWrite_afterRead {o : Operand} (hm : compositeModes.contains o.mode = true) (v : Byte) (s : State) :
    operandWrite o (effAddr o s) v (afterRead o s) = afterModify o v s :=
  operandWrite_mem _ _ _ _ (ne_acc_of_compositeModes hm)

section
variable (o : Operand) (v : Byte) (s : State)
@[simp] theorem afterModify_a : (afterModify o v s).a = s.a := rfl
@[simp] theorem afterModify_flag (f : Flag) : (afterModify o v s).flag f = s.flag f := rfl
end

theorem Keeps.afterModify {rs : List Reg} {fs : List Flag} {o : Operand} {v : Byte} {s u : State}
    (h : Keeps rs fs s u) : Keeps rs fs s (afterModify o v u) :=
  h.afterRead.memWrite

/-- A composite goes on with the old byte, the new one and the state after both accesses; A is still as it was. -/
theorem completes_of_composite {i : Instr} {o : Operand} {g : Byte → Byte} {k : Byte → Byte → State → State} {s : State}
    {post : State → Prop} (hm : compositeModes.contains o.mode = true) (h : exec i s = modifyingOperand o g k s)
    (hp : post (k (operandValue o s) (g (operandValue o s)) (afterModify o (g (operandValue o s)) s))) :
    Completes i s post :=
  completes_of_modifies o g k h (by rwa [operandWrite_afterRead hm])

/-- A composite that then writes named registers and flags only. -/
theorem modifiesOperand_of_composite {o : Operand} {v : Byte} {rs : List Reg} {fs : List Flag} {s t : State}
    (hm : compositeModes.contains o.mode = true) (h : Keeps rs fs s t)
    (hmem : t.mem = (afterModify o v s).mem := by rfl) (hpc : t.pc = (afterModify o v s).pc := by rfl)
    (hbus : t.bus = (afterModify o v s).bus := by rfl) : ModifiesOperand o v rs fs s t := by
  rw [← operandWrite_afterRead hm] at hmem hpc hbus
  exact modifiesOperand_of_keeps h (fun hacc => absurd hacc (ne_acc_of_compositeModes hm)) hmem hpc hbus

/-- What adding to A writes: A, C and V of the adder, and N and Z of its result. -/
theorem addToA_effect (u : State) (m : Byte) :
    let r := addWithCarry u.a m (u.flag .c)
    (u.addToA m).a = r.result ∧ (u.addToA m).flag .c = r.carry ∧ (u.addToA m).flag .v = r.overflow ∧
      NZof r.result (u.addToA m) :=
  ⟨rfl, by simp, by simp, nzof_setNZ _ _⟩

/-- Settles O53: the table's rows, DCP as a count and a compare, ISC as a count and a subtraction. -/
theorem dcpAndIscCountThenCombine : Obligations.DcpAndIscCountThenCombine := by
  refine ⟨hasRows_of_lookup .dcp _ (by decide) (fun _ => rfl) (fun _ => rfl),
    hasRows_of_lookup .isc _ (by decide) (fun _ => rfl) (fun _ => rfl), fun o s => ⟨fun hwf => ?dcp, fun hwf => ?isc⟩⟩
  case dcp =>
    refine completes_of_composite hwf (.refl (execDcp o s)) ?_
    exact ⟨by simp, by simp, by simp, modifiesOperand_of_composite hwf (Keeps.refl _ _ s).afterModify.compare⟩
  case isc =>
    refine completes_of_composite hwf (.refl (execIsc o s)) ?_
    obtain ⟨ha, hc, hv, hnz⟩ :=
      addToA_effect (afterModify o (operandValue o s + 1) s) ((operandValue o s + 1) ^^^ 0xFF)
    exact ⟨ha, hc, hv, hnz, modifiesOperand_of_composite hwf (Keeps.refl _ _ s).afterModify.addToA⟩

/-- A composite that moves its operand by one bit, sets C to the bit moved out, combines the byte just written with A,
and sets N and Z from the new A. -/
theorem completes_of_shift_combine {i : Instr} {o : Operand} {g : Byte → Byte} {out : Byte → Bool}
    {f : Byte → Byte → Byte} {s : State} (hm : compositeModes.contains o.mode = true)
    (h : exec i s =
      modifyingOperand o g (fun m r t => ((t.putFlag .c (out m)).setA (f t.a r)).setNZ (f t.a r)) s) :
    Completes i s (fun t =>
      let r := g (operandValue o s)
      t.a = f s.a r ∧ t.flag .c = out (operandValue o s) ∧ NZof (f s.a r) t ∧
      ModifiesOperand o r [.a] [.n, .z, .c] s t) :=
  completes_of_composite hm h ⟨rfl, (carry_setNZ _).trans (flag_putFlag_same _), nzof_setNZ _ _,
    modifiesOperand_of_composite hm (Keeps.refl _ _ s).afterModify.putFlag.setA.setNZ⟩

/-- Settles O54: the table's rows, three composites that combine, and RRA, whose adder takes the bit just moved out. -/
theorem shiftCompositesShiftThenCombine : Obligations.ShiftCompositesShiftThenCombine := by
  refine ⟨hasRows_of_lookup .slo _ (by decide) (fun _ => rfl) (fun _ => rfl),
    hasRows_of_lookup .rla _ (by decide) (fun _ => rfl) (fun _ => rfl),
    hasRows_of_lookup .sre _ (by decide) (fun _ => rfl) (fun _ => rfl),
    hasRows_of_lookup .rra _ (by decide) (fun _ => rfl) (fun _ => rfl),
    fun o s => ⟨fun hwf => ?slo, fun hwf => ?rla, fun hwf => ?sre, fun hwf => ?rra⟩⟩
  case slo => exact completes_of_shift_combine (g := shiftLeft) (out := topBit) (f := (· ||| ·)) hwf rfl
  case rla =>
    exact completes_of_shift_combine (g := rotateLeft (s.flag .c)) (out := topBit) (f := (· &&& ·)) hwf rfl
  case sre => exact completes_of_shift_combine (g := shiftRight) (out := bottomBit) (f := (· ^^^ ·)) hwf rfl
  case rra =>
    refine completes_of_composite hwf (.refl (execRra o s)) ?_
    have hadd := addToA_effect
      ((afterModify o (rotateRight (s.flag .c) (operandValue o s)) s).putFlag .c (bottomBit (operandValue o s)))
      (rotateRight (s.flag .c) (operandValue o s))
    rw [flag_putFlag_same] at hadd
    obtain ⟨ha, hc, hv, hnz⟩ := hadd
    exact ⟨ha, hc, hv, hnz, modifiesOperand_of_composite hwf (Keeps.refl _ _ s).afterModify.putFlag.addToA⟩

/-! ## Immediate composites and LAS (R259 to R264) -/

/-- Settles O55: the opcode bytes, and each instruction's registers and flags written in turn after the operand is
read. -/
theorem immediateAndCompositesSetCarry : Obligations.ImmediateAndCompositesSetCarry := by
  refine ⟨fun _ => ⟨⟨rfl, rfl⟩, ⟨rfl, rfl⟩, ⟨rfl, rfl⟩, ⟨rfl, rfl⟩⟩, fun ii s => ⟨?alr, fun k => ?anc, ?arr⟩⟩
  case alr =>
    refine completes_of_reads (.imm ii) _ (.refl (execAlr ii s)) ?_
    exact ⟨rfl, (carry_setNZ _).trans (flag_putFlag_same _), (negative_setNZ _).trans (topBit_shiftRight _),
      nzof_setNZ _ _, readsOperand_of_keeps (Keeps.refl _ _ s).afterRead.putFlag.setA.setNZ⟩
  case anc =>
    refine completes_of_reads (.imm ii) _ (.refl (execAnc ii s)) ?_
    exact ⟨rfl, (nzof_setNZ _ _).putFlag, (flag_putFlag_same _).trans (flag_putFlag_of_ne (by decide)).symm,
      readsOperand_of_keeps (Keeps.refl _ _ s).afterRead.setA.setNZ.putFlag⟩
  case arr =>
    refine completes_of_reads (.imm ii) _ (.refl (execArr ii s)) ?_
    exact ⟨rfl, (nzof_setNZ _ _).putFlag.putFlag, (flag_putFlag_of_ne (by decide)).trans (flag_putFlag_same _),
      flag_putFlag_same _,
      readsOperand_of_keeps (Keeps.refl _ _ s).afterRead.setA.setNZ.putFlag.putFlag⟩

/-- Settles O56: the opcode bytes; SBX and LAS as their writes in turn, USB as the add that SBC immediate is too. -/
theorem sbxUsbLas : Obligations.SbxUsbLas := by
  refine ⟨fun _ => ⟨⟨rfl, rfl⟩, ⟨rfl, rfl⟩⟩, fun _ => hasBytes_of_encode rfl, fun ii s => ⟨?sbx, ?usb⟩, fun w s => ?las⟩
  case sbx =>
    refine completes_of_reads (.imm ii) _ (.refl (execSbx ii s)) ?_
    exact ⟨rfl, (carry_setNZ _).trans (flag_putFlag_same _), nzof_setNZ _ _,
      readsOperand_of_keeps (Keeps.refl _ _ s).afterRead.putFlag.setX.setNZ⟩
  case usb =>
    obtain ⟨t, hexec, ha, -, -, -, hreads⟩ := completes_of_add (i := .usb ii) (g := (· ^^^ 0xFF)) (s := s) rfl
    exact ⟨t, hexec, hexec, ha, hreads⟩
  case las =>
    refine completes_of_reads (.absy w) _ (.refl (execLas w s)) ?_
    exact ⟨rfl, rfl, rfl, nzof_setNZ _ _, readsOperand_of_keeps (Keeps.refl _ _ s).afterRead.setA.setX.setSp.setNZ⟩

end Sys2Proof.Machine

/-! # Host inputs: safe runs and interrupts (`60_exceptions.md` R300 to R313) -/

namespace Sys2Proof.Machine

/-! ## Every input answers a state (R300) -/

/-- No meaning faults; the unstable opcodes alone could be refused, and are no-ops of their mode under the machine's
policy. -/
theorem exec_answers (i : Instr) (s : State) : Answers (exec i s) := by
  cases i with
  | ane ii | lxa ii | sha o | shx hhll | shy hhll | tas hhll => exact ⟨_, ignoringOperand_eq _ s⟩
  | _ => exact ⟨_, rfl⟩

theorem step_answers (s : State) : Answers (step s) := by
  cases hs : s.halted with
  | true => exact ⟨s, step_halted s hs⟩
  | false =>
    rw [step_running s hs]
    exact exec_answers _ _

theorem applyInput_answers (i : HostInput) (s : State) : Answers (applyInput i s) := by
  cases i with
  | tick => exact step_answers s
  | reset | irq | nmi => exact ⟨_, rfl⟩

/-- Settles O7, by induction on the inputs: each answers a state, from which the rest of the run goes on. -/
theorem everyRunIsSafe : Obligations.EveryRunIsSafe := by
  intro inputs
  induction inputs with
  | nil => exact fun s => ⟨s, rfl⟩
  | cons i is ih =>
    intro s
    obtain ⟨t, ht⟩ := applyInput_answers i s
    rw [SafeRun, runInputs_cons_of_next ht]
    exact ih t

/-! ## What irq() and nmi() do (R303 to R306, R313) -/

theorem irqInput_modelled (s : State) :
    irqInput .modelled s =
      .next (if s.halted = true ∨ s.flag .i = true then s else interruptEntry Config.irqVector s) := by
  simp [irqInput]

/-- Settles O58: an entry is a trap that returns to PC as it is; irq() and nmi() are the entries with their conditions. -/
theorem interruptInputs : Obligations.InterruptInputs :=
  ⟨fun vector s => takeTrap_effect s.pc (interruptForm s.p) vector s,
    fun s => ⟨irqInput_modelled s, rfl, rfl, rfl⟩⟩

/-! ## Return from a trap (R309) -/

theorem pullForm_interruptForm (p : Byte) : pullForm p (interruptForm p) = p := by
  refine status_ext _ _ fun f => ?_
  cases f <;> simp

theorem pullForm_pushForm (p : Byte) : pullForm p (pushForm p) = p := by
  refine status_ext _ _ fun f => ?_
  cases f <;> simp

section
variable (r : Word) (st : Byte) (vec pc' : Word) (s : State)

theorem returnFromTrap_takeTrap_sp : (returnFromTrap ((takeTrap r st vec s).setPc pc')).sp = s.sp := by simp

/-- The I flag that the trap set in the register is pulled with the rest of the saved byte. -/
theorem returnFromTrap_takeTrap_p :
    (returnFromTrap ((takeTrap r st vec s).setPc pc')).p = pullForm s.p st := by
  obtain ⟨-, -, hstatus⟩ := takeTrap_saved r st vec s
  rw [returnFromTrap_p, State.setPc_p, State.setPc_sp, State.setPc_peek, takeTrap_sp, takeTrap_p,
    BitVec.sub_add_cancel, hstatus, pullForm_putFlag_pulled (by decide) (by decide)]

theorem returnFromTrap_takeTrap_pc : (returnFromTrap ((takeTrap r st vec s).setPc pc')).pc = r := by
  obtain ⟨hhi, hlo, -⟩ := takeTrap_saved r st vec s
  rw [returnFromTrap_pc, State.setPc_sp, State.setPc_peek, State.setPc_peek, takeTrap_sp, BitVec.sub_add_cancel,
    BitVec.sub_add_cancel, BitVec.sub_add_cancel, hhi, hlo, word_hiByte_loByte]
end

/-- RTI after a trap resumes at the return address, if the byte the trap saved gives the status register back. RTI pulls from
the three addresses the trap pushed to, also when S wraps between them. -/
theorem completes_rti_after_takeTrap {r vec pc' : Word} {st : Byte} {s : State} (hst : pullForm s.p st = s.p) :
    Completes .rti ((takeTrap r st vec s).setPc pc') (fun u =>
      u.pc = r ∧ u.sp = s.sp ∧ u.p = s.p ∧ Keeps [] [] s u) := by
  have hsp := returnFromTrap_takeTrap_sp r st vec pc' s
  have hp := (returnFromTrap_takeTrap_p r st vec pc' s).trans hst
  have hkeeps := keeps_of_stack (by simp) (by simp) (by simp) hp (by simp)
  refine completes_of_next rfl
    ⟨returnFromTrap_takeTrap_pc r st vec pc' s, hsp, hp, hkeeps.narrow (fun q hq _ => ?_) fun _ hf _ => ?_⟩
  · obtain rfl := List.mem_singleton.mp hq
    exact hsp
  · exact absurd hf List.not_mem_nil

/-- Settles O59: interrupt entry and BRK are traps whose status byte holds every flag that RTI pulls. -/
theorem rtiResumes : Obligations.RtiResumes := by
  refine ⟨fun vector pc' s => completes_rti_after_takeTrap (pullForm_interruptForm s.p), fun pc' s t hexec => ?_⟩
  cases hexec
  exact completes_rti_after_takeTrap (pullForm_pushForm s.p)

/-! ## The order of the calls (R307) -/

theorem applyInput_irq_of_dropped {s : State} (h : s.halted = true ∨ s.flag .i = true) :
    applyInput .irq s = .next s := by
  refine (irqInput_modelled s).trans ?_
  rw [if_pos h]

theorem applyInput_irq_of_accepted {s : State} (h : ¬(s.halted = true ∨ s.flag .i = true)) :
    applyInput .irq s = .next (interruptEntry Config.irqVector s) := by
  refine (irqInput_modelled s).trans ?_
  rw [if_neg h]

theorem applyInput_nmi_of_running {s : State} (h : s.halted = false) :
    applyInput .nmi s = .next (interruptEntry Config.nmiVector s) := by
  simp [applyInput, nmiInput, Config.interruptPolicy, h]

/-- An interrupt entry masks irq(). -/
theorem applyInput_irq_interruptEntry (vector : Word) (s : State) :
    applyInput .irq (interruptEntry vector s) = .next (interruptEntry vector s) :=
  applyInput_irq_of_dropped (.inr (takeTrap_flag _ _ vector s .i))

/-- What irq() leaves, a second irq() leaves as it is. -/
theorem runInputs_irq_irq (s : State) : runInputs [.irq, .irq] s = runInputs [.irq] s := by
  by_cases h : s.halted = true ∨ s.flag .i = true
  · rw [runInputs_cons_of_next (applyInput_irq_of_dropped h)]
  · rw [runInputs_cons_of_next (applyInput_irq_of_accepted h), runInputs_cons_of_next (applyInput_irq_of_accepted h),
      runInputs_cons_of_next (applyInput_irq_interruptEntry _ s)]

/-- Settles O60: the entry of the first call sets I, which drops an irq() after it, and stays Running, which lets an nmi()
after it enter. -/
theorem interruptsFollowTheCallOrder : Obligations.InterruptsFollowTheCallOrder := by
  refine fun s => ⟨?nmi_irq, runInputs_irq_irq s, fun hs hi => ?irq_nmi⟩
  case nmi_irq =>
    cases hs : s.halted with
    | true =>
      obtain ⟨hjammed, -⟩ := jammedUntilReset
      exact hjammed [.nmi, .irq] s (by decide) hs
    | false =>
      rw [runInputs_cons_of_next (applyInput_nmi_of_running hs),
        runInputs_cons_of_next (applyInput_irq_interruptEntry _ s)]
      rfl
  case irq_nmi =>
    have hrunning : (interruptEntry Config.irqVector s).halted = false := (takeTrap_halted _ _ _ s).trans hs
    rw [runInputs_cons_of_next (applyInput_irq_of_accepted (by simp [hs, hi])),
      runInputs_cons_of_next (applyInput_nmi_of_running hrunning)]
    rfl

end Sys2Proof.Machine

/-! # Reset, and a placed instruction word (`70_reset_and_hazards.md` R330 to R333) -/

namespace Sys2Proof.Machine

/-! ## A placed instruction word (R333; log entry 7) -/

/-- Read after write at bus addresses. -/
theorem Memory.read_write_word (m : Memory) (a b : Word) (v : Byte) :
    (m.write a.toNat v).read b.toNat = if b = a then v else m.read b.toNat := by
  simp [Memory.read_write, BitVec.toNat_inj]

/-- The three addresses differ, also when PC wraps between them, so no store overwrites the one before it. -/
theorem bytesAtPc_withFetchWord (s : State) (nbits w : Nat) :
    bytesAtPc (s.withFetchWord nbits w) = tableBytes nbits w := by
  have hthird : s.pc + 1 + 1 = s.pc + 2 := BitVec.add_assoc s.pc 1 1
  simp only [bytesAtPc, State.peek, State.withFetchWord, tableBytes, storeBytes, Memory.read_write_word, hthird]
  simp

theorem decodeTableWord_eq_some_iff {nbits w : Nat} {i : Instr} :
    decodeTableWord nbits w = some i ↔ ∃ rest, decode (tableBytes nbits w) = .ok (i, rest) := by
  rw [decodeTableWord]
  cases decode (tableBytes nbits w) with
  | error e => simp
  | ok r => simp [Prod.ext_iff]

/-- Settles O6: the bytes at PC are those of the word, and the tick runs what they decode to. -/
theorem placedWordIsFetched : Obligations.PlacedWordIsFetched := by
  intro s nbits w i h
  obtain ⟨rest, hdecode⟩ := decodeTableWord_eq_some_iff.mp h
  rw [← bytesAtPc_withFetchWord s] at hdecode
  exact ⟨rfl, instrAt_of_decode hdecode, stepRunsTheDecodedInstruction _ i rest rfl hdecode⟩

/-! ## reset() (R330 to R332) -/

/-- Every field of what reset() leaves: only memory and the bus record look at the state before. -/
theorem resetInput_state (s : State) :
    resetInput s =
      { a := 0x00, x := 0x00, y := 0x00, sp := 0x00, p := 0x00, pc := word (s.peek 0xFFFD) (s.peek 0xFFFC),
        halted := false, mem := s.mem,
        bus := .read 0xFFFD (s.peek 0xFFFD) :: .read 0xFFFC (s.peek 0xFFFC) :: s.bus } := rfl

/-- Settles O9: the fields of what reset() leaves. -/
theorem resetInputState : Obligations.ResetInputState := by
  intro s
  refine ⟨resetInput s, rfl, ?_⟩
  rw [resetInput_state]
  exact ⟨rfl, rfl, rfl, rfl, rfl, rfl, rfl, bytesKept_of_mem rfl, rfl⟩

/-- Settles O10: with no cell listed, both vector bytes are what an unlisted address reads as. -/
theorem resetStateIsResetOfEmptyBus : Obligations.ResetStateIsResetOfEmptyBus := by
  intro s hmem hbus
  have hpeek (a : Word) : s.peek a = Memory.unlisted := by rw [State.peek, hmem, Memory.read]
  rw [applyInput, resetInput_state, hpeek, hpeek, hmem, hbus]
  rfl

end Sys2Proof.Machine
